-- ==== Sys2Proof/Word.lean ====
section
/-! DEFINITION. The machine's numeric types (spec/00_scope.md R7, 41_alu.md R114): unsigned 8-bit, unsigned 16-bit,
4-bit fields and the 12-bit address operand. There is no other numeric type in this hardware. -/

namespace Sys2Proof

/-- A register, a timer, a memory byte, the operand `kk` (R10, R15, R16, R61). -/
abbrev Byte := BitVec 8

/-- `I`, `PC`, a stack entry, an instruction word (R12, R13, R14, R60). -/
abbrev Word := BitVec 16

/-- A 4-bit field: a register number, a key number, a sprite height (R61, R19). -/
abbrev Nibble := BitVec 4

/-- A register number `x` or `y`: every 4-bit value names a register (R10). -/
abbrev RegIx := BitVec 4

/-- The 12-bit address operand `nnn` (R61). -/
abbrev Addr := BitVec 12

end Sys2Proof
end

