-- ==== Sys2Proof/Syntax.lean ====
section
/-! DEFINITION. The instruction set (spec/30_encoding.md R64): one constructor per row of spec/opcode_table.json, in the
table's order, with the fields the row names. -/

namespace Sys2Proof

/-- An instruction of R64. `SHR` and `SHL` carry the field `y` that their words hold and their meanings ignore (R62). -/
inductive Instr where
  /-- `SYS nnn`, 0nnn other than 00E0 and 00EE (R88). -/
  | sys (nnn : Addr)
  /-- `CLS`, 00E0 (R130). -/
  | cls
  /-- `RET`, 00EE (R89). -/
  | ret
  /-- `JP nnn`, 1nnn (R90). -/
  | jp (nnn : Addr)
  /-- `CALL nnn`, 2nnn (R91). -/
  | call (nnn : Addr)
  /-- `SE Vx, kk`, 3xkk (R92). -/
  | seVxKk (x : RegIx) (kk : Byte)
  /-- `SNE Vx, kk`, 4xkk (R93). -/
  | sneVxKk (x : RegIx) (kk : Byte)
  /-- `SE Vx, Vy`, 5xy0 (R94). -/
  | seVxVy (x y : RegIx)
  /-- `LD Vx, kk`, 6xkk (R100). -/
  | ldVxKk (x : RegIx) (kk : Byte)
  /-- `ADD Vx, kk`, 7xkk (R101). -/
  | addVxKk (x : RegIx) (kk : Byte)
  /-- `LD Vx, Vy`, 8xy0 (R102). -/
  | ldVxVy (x y : RegIx)
  /-- `OR Vx, Vy`, 8xy1 (R103). -/
  | orVxVy (x y : RegIx)
  /-- `AND Vx, Vy`, 8xy2 (R104). -/
  | andVxVy (x y : RegIx)
  /-- `XOR Vx, Vy`, 8xy3 (R105). -/
  | xorVxVy (x y : RegIx)
  /-- `ADD Vx, Vy`, 8xy4 (R106). -/
  | addVxVy (x y : RegIx)
  /-- `SUB Vx, Vy`, 8xy5 (R107). -/
  | subVxVy (x y : RegIx)
  /-- `SHR Vx`, 8xy6, `y` ignored (R108). -/
  | shrVx (x y : RegIx)
  /-- `SUBN Vx, Vy`, 8xy7 (R109). -/
  | subnVxVy (x y : RegIx)
  /-- `SHL Vx`, 8xyE, `y` ignored (R110). -/
  | shlVx (x y : RegIx)
  /-- `SNE Vx, Vy`, 9xy0 (R95). -/
  | sneVxVy (x y : RegIx)
  /-- `LD I, nnn`, Annn (R120). -/
  | ldI (nnn : Addr)
  /-- `JP V0, nnn`, Bnnn (R96). -/
  | jpV0 (nnn : Addr)
  /-- `RND Vx, kk`, Cxkk (R111). -/
  | rnd (x : RegIx) (kk : Byte)
  /-- `DRW Vx, Vy, n`, Dxyn (R131). -/
  | drw (x y : RegIx) (n : Nibble)
  /-- `SKP Vx`, Ex9E (R140). -/
  | skp (x : RegIx)
  /-- `SKNP Vx`, ExA1 (R141). -/
  | sknp (x : RegIx)
  /-- `LD Vx, DT`, Fx07 (R143). -/
  | ldVxDt (x : RegIx)
  /-- `LD Vx, K`, Fx0A (R142). -/
  | ldVxK (x : RegIx)
  /-- `LD DT, Vx`, Fx15 (R144). -/
  | ldDtVx (x : RegIx)
  /-- `LD ST, Vx`, Fx18 (R145). -/
  | ldStVx (x : RegIx)
  /-- `ADD I, Vx`, Fx1E (R121). -/
  | addIVx (x : RegIx)
  /-- `LD F, Vx`, Fx29 (R122). -/
  | ldFVx (x : RegIx)
  /-- `LD B, Vx`, Fx33 (R123). -/
  | ldBVx (x : RegIx)
  /-- `LD [I], Vx`, Fx55 (R124). -/
  | ldMemVx (x : RegIx)
  /-- `LD Vx, [I]`, Fx65 (R125). -/
  | ldVxMem (x : RegIx)
deriving DecidableEq, Repr

end Sys2Proof
end

