-- ==== Sys2Proof/WellFormed.lean ====
section
/-! DEFINITION. Which terms of `Instr` are instructions of the table. Every field value is legal (spec/10_state.md R10,
30_encoding.md R63, R67) but for one row: `SYS nnn` excludes the two words 00E0 and 00EE, which are `CLS` and `RET`
(30_encoding.md R64, R65). -/

namespace Sys2Proof

/-- The operand of `SYS` is not the word of `CLS` or of `RET` (R64 row 1, R65). -/
def Addr.sysOperand (nnn : Addr) : Bool :=
  nnn != 0x0E0 && nnn != 0x0EE

/-- The well-formedness check of an instruction, one arm per constructor. -/
def Instr.wf (i : Instr) : Bool :=
  match i with
  | .sys nnn => Addr.sysOperand nnn
  | .cls | .ret => true
  | .jp _ | .call _ | .ldI _ | .jpV0 _ => true
  | .seVxKk _ _ | .sneVxKk _ _ | .ldVxKk _ _ | .addVxKk _ _ | .rnd _ _ => true
  | .seVxVy _ _ | .sneVxVy _ _ => true
  | .ldVxVy _ _ | .orVxVy _ _ | .andVxVy _ _ | .xorVxVy _ _ => true
  | .addVxVy _ _ | .subVxVy _ _ | .subnVxVy _ _ | .shrVx _ _ | .shlVx _ _ => true
  | .drw _ _ _ => true
  | .skp _ | .sknp _ | .ldVxDt _ | .ldVxK _ | .ldDtVx _ | .ldStVx _ => true
  | .addIVx _ | .ldFVx _ | .ldBVx _ | .ldMemVx _ | .ldVxMem _ => true

end Sys2Proof
end

