-- ==== Sys2Proof/Decode.lean ====
section
/-! DEFINITION. The decoder and the encoder (spec/30_encoding.md R60 to R66): the six fields, the decode procedure in the
order of R65, the rejection of the unrecognised words of R66 by name, and the words of R64 written out. -/

namespace Sys2Proof

/-! ## The fields of a word (R61) -/

/-- `class` = op[15:12]. -/
def opClass (op : Word) : Nibble := op.extractLsb' 12 4
/-- `nnn` = op[11:0]. -/
def opNnn (op : Word) : Addr := op.extractLsb' 0 12
/-- `kk` = op[7:0]. -/
def opKk (op : Word) : Byte := op.extractLsb' 0 8
/-- `x` = op[11:8]. -/
def opX (op : Word) : RegIx := op.extractLsb' 8 4
/-- `y` = op[7:4]. -/
def opY (op : Word) : RegIx := op.extractLsb' 4 4
/-- `n` = op[3:0]. -/
def opN (op : Word) : Nibble := op.extractLsb' 0 4

/-- The byte at the lower address, op[15:8] (R44, R60). -/
def hiByte (op : Word) : Byte := op.extractLsb' 8 8
/-- The byte at the higher address, op[7:0] (R44, R60). -/
def loByte (op : Word) : Byte := op.extractLsb' 0 8
/-- Big-endian assembly of a word, high byte first (R44). -/
def wordOfBytes (hi lo : Byte) : Word := hi ++ lo

/-! ## The decoder (R65, R66) -/

/-- Why no instruction was read. -/
inductive DecodeReject where
  /-- The word selects no instruction: an unrecognised sub-opcode within a recognised class (R66). -/
  | unrecognised (op : Word)
  /-- Fewer than two bytes were given; a fetch always gives two (R60). -/
  | truncated
deriving DecidableEq, Repr

/-- Class 0: the whole word is compared with 00E0 and 00EE, every other word is `SYS` (R65). -/
def decodeClass0 (op : Word) : Instr :=
  if op = 0x00E0#16 then .cls else if op = 0x00EE#16 then .ret else .sys (opNnn op)

/-- Class 8: the register-to-register group, selected on `n` (R64 rows 11 to 19). -/
def decodeClass8 (op : Word) : Option Instr :=
  let x := opX op
  let y := opY op
  match (opN op).toNat with
  | 0x0 => some (.ldVxVy x y)
  | 0x1 => some (.orVxVy x y)
  | 0x2 => some (.andVxVy x y)
  | 0x3 => some (.xorVxVy x y)
  | 0x4 => some (.addVxVy x y)
  | 0x5 => some (.subVxVy x y)
  | 0x6 => some (.shrVx x y)
  | 0x7 => some (.subnVxVy x y)
  | 0xE => some (.shlVx x y)
  | _ => none

/-- Class E: the key skips, selected on `kk` (R64 rows 25, 26). -/
def decodeClassE (op : Word) : Option Instr :=
  match (opKk op).toNat with
  | 0x9E => some (.skp (opX op))
  | 0xA1 => some (.sknp (opX op))
  | _ => none

/-- Class F without the key wait, selected on `kk` (R64 rows 27 and 29 to 35). -/
def decodeClassF (op : Word) : Option Instr :=
  let x := opX op
  match (opKk op).toNat with
  | 0x07 => some (.ldVxDt x)
  | 0x15 => some (.ldDtVx x)
  | 0x18 => some (.ldStVx x)
  | 0x1E => some (.addIVx x)
  | 0x29 => some (.ldFVx x)
  | 0x33 => some (.ldBVx x)
  | 0x55 => some (.ldMemVx x)
  | 0x65 => some (.ldVxMem x)
  | _ => none

/-- The main dispatch on `class` (R65 item 3). -/
def decodeMain (op : Word) : Option Instr :=
  match (opClass op).toNat with
  | 0x0 => some (decodeClass0 op)
  | 0x1 => some (.jp (opNnn op))
  | 0x2 => some (.call (opNnn op))
  | 0x3 => some (.seVxKk (opX op) (opKk op))
  | 0x4 => some (.sneVxKk (opX op) (opKk op))
  | 0x5 => if opN op = 0 then some (.seVxVy (opX op) (opY op)) else none
  | 0x6 => some (.ldVxKk (opX op) (opKk op))
  | 0x7 => some (.addVxKk (opX op) (opKk op))
  | 0x8 => decodeClass8 op
  | 0x9 => if opN op = 0 then some (.sneVxVy (opX op) (opY op)) else none
  | 0xA => some (.ldI (opNnn op))
  | 0xB => some (.jpV0 (opNnn op))
  | 0xC => some (.rnd (opX op) (opKk op))
  | 0xD => some (.drw (opX op) (opY op) (opN op))
  | 0xE => decodeClassE op
  | _ => decodeClassF op

/-- Decoding of one word: the key wait first (R65 item 2, R85), then the main dispatch, then rejection by name (R66).
Depends on the word alone (R84). -/
def decodeWord (op : Word) : Except DecodeReject Instr :=
  if opClass op = 0xF ∧ opKk op = 0x0A then .ok (.ldVxK (opX op))
  else
    match decodeMain op with
    | some i => .ok i
    | none => .error (.unrecognised op)

/-- Decoding of a byte sequence, high byte first; the rest of the bytes is handed back. -/
def decode (bytes : List Byte) : Except DecodeReject (Instr × List Byte) :=
  match bytes with
  | hi :: lo :: rest =>
    match decodeWord (wordOfBytes hi lo) with
    | .ok i => .ok (i, rest)
    | .error e => .error e
  | _ => .error .truncated

/-! ## The encoder (R62, R64) -/

/-- Format NNN: class, nnn. -/
def formatNNN (cls : Nibble) (nnn : Addr) : Word := cls ++ nnn
/-- Formats XKK and XSUB: class, x, kk (kk is the sub-opcode in XSUB). -/
def formatXKK (cls : Nibble) (x : RegIx) (kk : Byte) : Word := cls ++ (x ++ kk)
/-- Format XYN: class, x, y, n. -/
def formatXYN (cls : Nibble) (x y : RegIx) (n : Nibble) : Word := cls ++ (x ++ (y ++ n))

/-- The word of an instruction, from the patterns of R64. -/
def encode (i : Instr) : Word :=
  match i with
  | .sys nnn => formatNNN 0x0 nnn
  | .cls => 0x00E0
  | .ret => 0x00EE
  | .jp nnn => formatNNN 0x1 nnn
  | .call nnn => formatNNN 0x2 nnn
  | .seVxKk x kk => formatXKK 0x3 x kk
  | .sneVxKk x kk => formatXKK 0x4 x kk
  | .seVxVy x y => formatXYN 0x5 x y 0x0
  | .ldVxKk x kk => formatXKK 0x6 x kk
  | .addVxKk x kk => formatXKK 0x7 x kk
  | .ldVxVy x y => formatXYN 0x8 x y 0x0
  | .orVxVy x y => formatXYN 0x8 x y 0x1
  | .andVxVy x y => formatXYN 0x8 x y 0x2
  | .xorVxVy x y => formatXYN 0x8 x y 0x3
  | .addVxVy x y => formatXYN 0x8 x y 0x4
  | .subVxVy x y => formatXYN 0x8 x y 0x5
  | .shrVx x y => formatXYN 0x8 x y 0x6
  | .subnVxVy x y => formatXYN 0x8 x y 0x7
  | .shlVx x y => formatXYN 0x8 x y 0xE
  | .sneVxVy x y => formatXYN 0x9 x y 0x0
  | .ldI nnn => formatNNN 0xA nnn
  | .jpV0 nnn => formatNNN 0xB nnn
  | .rnd x kk => formatXKK 0xC x kk
  | .drw x y n => formatXYN 0xD x y n
  | .skp x => formatXKK 0xE x 0x9E
  | .sknp x => formatXKK 0xE x 0xA1
  | .ldVxDt x => formatXKK 0xF x 0x07
  | .ldVxK x => formatXKK 0xF x 0x0A
  | .ldDtVx x => formatXKK 0xF x 0x15
  | .ldStVx x => formatXKK 0xF x 0x18
  | .addIVx x => formatXKK 0xF x 0x1E
  | .ldFVx x => formatXKK 0xF x 0x29
  | .ldBVx x => formatXKK 0xF x 0x33
  | .ldMemVx x => formatXKK 0xF x 0x55
  | .ldVxMem x => formatXKK 0xF x 0x65

/-- The two bytes of an instruction as memory holds them, high byte first (R60, R44). -/
def encodeBytes (i : Instr) : List Byte := [hiByte (encode i), loByte (encode i)]

/-! ## The host's table words -/

/-- The word whose bits are `w` (bit 0 the least significant bit of the word), the bits at and above `nbits` being 0. -/
def tableWord (nbits w : Nat) : Word := BitVec.ofNat 16 (w % 2 ^ nbits)

/-- The instruction the decoder reads from that word laid out in memory order; none where it rejects. -/
def decodeTableWord (nbits w : Nat) : Option Instr :=
  match decode [hiByte (tableWord nbits w), loByte (tableWord nbits w)] with
  | .ok (i, _) => some i
  | .error _ => none

end Sys2Proof
end

