-- ==== Sys2Proof/Machine/Font.lean ====
section
/-! DEFINITION. The type and the default of the parameter `FONT` (spec/00_scope.md R6, 20_memory.md R43, D25, U12), and what an
address of memory that no cell lists reads as. The parameter itself is `Params.font` in Config.lean; Reset writes it. -/

namespace Sys2Proof.Machine

/-- A table `FONT[0..79]` (R6). -/
abbrev FontTable := Vector Byte 80

/-- The bytes of the default table: sixteen glyphs of five bytes, glyph `d` at `5*d`, top row first (R43). -/
def defaultFontBytes : List Byte := [
  0xF0, 0x90, 0x90, 0x90, 0xF0,  0x20, 0x60, 0x20, 0x20, 0x70,
  0xF0, 0x10, 0xF0, 0x80, 0xF0,  0xF0, 0x10, 0xF0, 0x10, 0xF0,
  0x90, 0x90, 0xF0, 0x10, 0x10,  0xF0, 0x80, 0xF0, 0x10, 0xF0,
  0xF0, 0x80, 0xF0, 0x90, 0xF0,  0xF0, 0x10, 0x20, 0x40, 0x40,
  0xF0, 0x90, 0xF0, 0x90, 0xF0,  0xF0, 0x90, 0xF0, 0x10, 0xF0,
  0xF0, 0x90, 0xF0, 0x90, 0x90,  0xE0, 0x90, 0xE0, 0x90, 0xE0,
  0xF0, 0x80, 0x80, 0x80, 0xF0,  0xE0, 0x90, 0x90, 0x90, 0xE0,
  0xF0, 0x80, 0xF0, 0x80, 0xF0,  0xF0, 0x80, 0xF0, 0x80, 0x80]

/-- The default of the parameter `FONT` (R6, R43, D25). -/
def defaultFont : FontTable := ⟨defaultFontBytes.toArray, rfl⟩

/-- What an address no cell lists reads as: the reset contents of memory with the default `FONT`, the table on [0x000, 0x050)
and zero above (10_state.md R16, R26; 20_memory.md R42). Another table is held as listed cells (log entries 2, 9). -/
def resetByte (a : Nat) : Byte := defaultFontBytes.getD a 0

end Sys2Proof.Machine
end

