-- ==== Sys2Proof/Config.lean ====
section
/-! DEFINITION. What the spec leaves to the implementation (spec/00_scope.md R6): the parameters of the clock, of the
frames and of the font, the parameter of the two subtractions, and the free value of the random byte. -/

namespace Sys2Proof

/-- The configuration of R6 that the clock, the frames and Reset use; it survives Reset (10_state.md R24, R190).
The type admits exactly the values R6 allows: rates are positive integers and the two tags differ, so the values that
93_implementation_defined.md U4 and U5 ask a model to refuse cannot be built (log entry 7). -/
structure Params where
  /-- `CPU_HZ_CFG`: configured CPU step rate, steps per second (R6, R162). -/
  cpuHzCfg : Nat
  /-- `TIMEBASE_HZ`: units per second of the elapsed-time input of `Update` (R6, R164). -/
  timebaseHz : Nat
  /-- `DISPLAY_TAG`: framing byte of the display frame (R6, R173). -/
  displayTag : Byte
  /-- `DEBUG_TAG`: framing byte of the debug frame (R6, R175). -/
  debugTag : Byte
  /-- `FONT[0..79]`: the bytes Reset writes to [0x000, 0x050), any table; the default is that of R43 (R6, log entry 2). -/
  font : Machine.FontTable := Machine.defaultFont
  cpuHzCfg_pos : 0 < cpuHzCfg
  timebaseHz_pos : 0 < timebaseHz
  tags_ne : debugTag ≠ displayTag
deriving DecidableEq, Repr

/-- `SUB_EQ_FLAG` of R6: `VF` after `SUB`/`SUBN` with equal operands (R107, R109). The spec keeps it as an open named
parameter (D7, U11), so it has no body here and every statement holds for both values.
DESIGN CHOICE, safe: log entry 3. -/
opaque Config.subEqFlag : Bool

/-- `RandByte()` of R6 and R111: a free 8-bit input per execution, under no law (D23, U3). The argument is the number of
draws made so far (`State.draws`); there is no body, so nothing can be proved about a draw.
DESIGN CHOICE, safe: log entry 1. -/
opaque Config.randByte : Nat → Byte

end Sys2Proof
end

