-- ==== Sys2Proof/Machine/State.lean ====
section
/-! DEFINITION. The state of the machine (spec/10_state.md R10 to R26), the reasons a step can stop, and the state right
after Reset (R26). Everything here is plain data. -/

namespace Sys2Proof.Machine

/-- Memory as the cells that differ from the reset contents, in address order (log entry 9; the canonical form is
`Memory.wf` in Machine/Ops.lean). -/
abbrev Memory := List Host.Cell

/-- The framebuffer: 32 rows of 64 pixels, row 0 at the top, column 0 at the left, `true` = on (R17). -/
abbrev FrameBuffer := Vector (Vector Bool 64) 32

/-- The sixteen 1-bit entries of `KEY` or `KEYEVT` (R19, R20). -/
abbrev KeyBits := Vector Bool 16

/-- `MODE` (R21). -/
inductive Mode where
  | running
  | waitingForKeypress
  | halted
deriving DecidableEq, Repr

/-- The one cause of the fatal condition (60_exceptions.md R151, R152). -/
inductive FatalCause where
  /-- `PC_RANGE`, code 1. -/
  | pcRange
deriving DecidableEq, Repr

/-- What the `FAULT` latch holds: the cause and the offending `PC` (R22, R155). -/
structure FatalRecord where
  cause : FatalCause
  pc : Word
deriving DecidableEq, Repr

/-- The anomalies an instruction reports (60_exceptions.md R151). -/
inductive Anomaly where
  /-- `UNKNOWN_OPCODE`, code 2. -/
  | unknownOpcode
  /-- `STACK_UNDERFLOW`, code 3. -/
  | stackUnderflow
  /-- `STACK_OVERFLOW`, code 4. -/
  | stackOverflow
  /-- `DATA_ADDR_RANGE`, code 5. -/
  | dataAddrRange
deriving DecidableEq, Repr

/-- One record on the report port (60_exceptions.md R156). -/
inductive Report where
  /-- `(code, PC, op)` of a reported no-op. -/
  | anomaly (kind : Anomaly) (pc op : Word)
  /-- `(6, length)` of a rejected Load (70_reset_and_hazards.md R193). -/
  | loadTooLong (length : Nat)
deriving DecidableEq, Repr

/-- The state. Every field but the last three is a piece of state of R26; `reports` is the history that R156 asks a model to
keep, `draws` and `loadable` are the model's own (log entries 5, 1, 6). -/
structure State where
  /-- `V[0..15]` (R10); `V[15]` is `VF`, the only flag (R11). -/
  v : Vector Byte 16
  /-- `I` (R12). -/
  i : Word
  /-- `PC` (R13). -/
  pc : Word
  /-- `SP`, the number of valid stack entries (R14). -/
  sp : Fin 17
  /-- `STK[0..15]` (R14). -/
  stk : Vector Word 16
  /-- `DT` (R15). -/
  dt : Byte
  /-- `ST` (R15). -/
  st : Byte
  /-- `MEM[0..4095]` (R16). -/
  mem : Memory
  /-- `FB[0..31][0..63]` (R17). -/
  fb : FrameBuffer
  /-- `DIRTY` (R18). -/
  dirty : Bool
  /-- `PACKED[0..256]` (R18). -/
  packed : Vector Byte 257
  /-- `KEY[0..15]` (R19). -/
  keys : KeyBits
  /-- `KEYEVT[0..15]` (R20). -/
  keyEvt : KeyBits
  /-- `MODE` (R21). -/
  mode : Mode
  /-- `FAULT` (R22). -/
  fault : Option FatalRecord
  /-- `T_LAST` (R23). -/
  tLast : Nat
  /-- `ACC_CPU` (R23). -/
  accCpu : Nat
  /-- `ACC_TMR` (R23). -/
  accTmr : Nat
  /-- The records sent to the report port so far, oldest first (60_exceptions.md R156). -/
  reports : List Report
  /-- How many random bytes have been drawn: which free value the next `RND` reads (model's own, log entry 1). -/
  draws : Nat
  /-- A `Load` is still legal: no Load and no Update since Reset (70_reset_and_hazards.md R194; model's own, log entry 6). -/
  loadable : Bool
deriving DecidableEq, Repr

/-- Why a step stops with no next state. -/
inductive Fault where
  /-- Raised by `step` when `MODE = Halted`, where no step is dispatched (40_step_and_control.md R80; 60_exceptions.md
  R159), and by the key wait there. Carries the `FAULT` latch, which is what `Update` returns (R167). Safe: the spec gives
  no step in this mode. -/
  | halted (latch : Option FatalRecord)
deriving DecidableEq, Repr

/-- What the model does not accept. -/
inductive Refusal where
  /-- Raised by an arm of `exec` whose instruction has no meaning yet. Safe: nothing is claimed of that instruction. -/
  | notModelled (mnemonic : String)
  /-- Raised by `step` when `MODE = WaitingForKeypress` and the word at `PC` is not `Fx0A`, which the spec calls unreachable
  and asks a model to refuse (40_step_and_control.md R85, D36, U8). Safe. -/
  | waitingOnOtherWord (op : Word)
  /-- Raised by `load` when it is not the first Load after Reset, an Update has run, or `MODE` is not Running
  (70_reset_and_hazards.md R194, D20, U7). Safe: the spec gives such a Load no meaning. -/
  | loadOutOfLifecycle
  /-- Raised by `update` when `t_now < T_LAST` (60_exceptions.md R164, D35, U10). Safe: the spec gives it no meaning. -/
  | timeWentBack (tNow tLast : Nat)
deriving DecidableEq, Repr

/-- The outcome of one step. -/
abbrev StepResult := Host.Outcome State Fault Refusal

/-- The state immediately after Reset (R26), with the default `FONT`; `State.resetWith` in Machine/Boot.lean is Reset with any
table (log entry 2). `packed` is unspecified by the spec and never read while `dirty` holds
(log entry 4); `reports`, `draws` and `loadable` are as log entries 5, 1 and 6 say. -/
def State.reset : State where
  v := Vector.replicate 16 0
  i := 0
  pc := 0x200
  sp := 0
  stk := Vector.replicate 16 0
  dt := 0
  st := 0
  mem := []
  fb := Vector.replicate 32 (Vector.replicate 64 false)
  dirty := true
  packed := Vector.replicate 257 0
  keys := Vector.replicate 16 false
  keyEvt := Vector.replicate 16 false
  mode := .running
  fault := none
  tLast := 0
  accCpu := 0
  accTmr := 0
  reports := []
  draws := 0
  loadable := true

end Sys2Proof.Machine
end

