-- ==== Sys2Proof/Machine/Ops.lean ====
section
/-! DEFINITION. The named operations over memory, registers, stack, framebuffer and control state that every meaning is
written with (spec/00_scope.md R8): memory and its canonical form, the PC advance of 40_step_and_control.md R86, the
reported no-op of R87 and the fatal entry of 60_exceptions.md R155. There is no return from the fatal entry but Reset
(R159), which is `hostReset` in Machine/Boot.lean. -/

namespace Sys2Proof.Machine

/-! ## Memory (20_memory.md R40 to R54) -/

/-- The number of bytes of memory (R40). -/
def memSize : Nat := 4096

/-- `MemRead(addr, 1)`: the listed cell, else the reset contents (R54). Every caller has checked its address against R47. -/
def Memory.read (m : Memory) (a : Nat) : Byte :=
  match m with
  | [] => resetByte a
  | c :: rest => if c.1 = a then c.2 else Memory.read rest a

/-- The list without any cell for address `a`. -/
def Memory.erase (m : Memory) (a : Nat) : Memory := m.filter (fun c => c.1 != a)

/-- A cell put before the first cell of a higher address. -/
def Memory.insert (m : Memory) (a : Nat) (b : Byte) : Memory :=
  match m with
  | [] => [(a, b)]
  | c :: rest => if a < c.1 then (a, b) :: c :: rest else c :: Memory.insert rest a b

/-- `MemWrite(addr, 1, b)`, keeping the canonical form: a byte equal to the reset contents is not listed. There is no byte
above 0xFFF to write (R40); every caller has checked its address against R47. -/
def Memory.write (m : Memory) (a : Nat) (b : Byte) : Memory :=
  if a < memSize then
    if b = resetByte a then Memory.erase m a else Memory.insert (Memory.erase m a) a b
  else m

/-- The canonical form from address `lo` up: addresses strictly rising and inside memory, no cell equal to the reset
contents. -/
def Memory.wfFrom (lo : Nat) (m : Memory) : Bool :=
  match m with
  | [] => true
  | c :: rest =>
    decide (lo ≤ c.1) && decide (c.1 < memSize) && decide (c.2 ≠ resetByte c.1) && Memory.wfFrom (c.1 + 1) rest

/-- The canonical form of memory. -/
def Memory.wf (m : Memory) : Bool := Memory.wfFrom 0 m

/-- Consecutive bytes written from address `a` up, the first at `a`. -/
def Memory.writeBytes (m : Memory) (a : Nat) (bytes : List Byte) : Memory :=
  match bytes with
  | [] => m
  | b :: rest => Memory.writeBytes (Memory.write m a b) (a + 1) rest

/-- `MemRead(addr, 2)`: two bytes, high byte first (R44). -/
def Memory.readWord (m : Memory) (a : Nat) : Word := wordOfBytes (Memory.read m a) (Memory.read m (a + 1))

/-! ## General registers (10_state.md R10, R11) -/

/-- `V[x]`. -/
def State.reg (s : State) (x : RegIx) : Byte := s.v[x.toNat]'x.isLt

/-- `V[x] <- b`. -/
def State.setReg (s : State) (x : RegIx) (b : Byte) : State := { s with v := s.v.set x.toNat b x.isLt }

/-- The number of `VF`. -/
def vf : RegIx := 0xF

/-! ## Keys (10_state.md R19, R20) -/

/-- Entry `k` of `KEY` or `KEYEVT`. -/
def KeyBits.get (ks : KeyBits) (k : Nibble) : Bool := ks[k.toNat]'k.isLt

/-- Entry `k` of `KEY` or `KEYEVT` set to `b`. -/
def KeyBits.put (ks : KeyBits) (k : Nibble) (b : Bool) : KeyBits := ks.set k.toNat b k.isLt

/-- All sixteen entries 0. -/
def KeyBits.clear : KeyBits := Vector.replicate 16 false

/-! ## Framebuffer (10_state.md R17) -/

/-- `FB[r][c]`. -/
def FrameBuffer.pixel (fb : FrameBuffer) (r : Fin 32) (c : Fin 64) : Bool := (fb[r])[c]

/-- `FB[r][c] <- b`. -/
def FrameBuffer.setPixel (fb : FrameBuffer) (r : Fin 32) (c : Fin 64) (b : Bool) : FrameBuffer :=
  fb.set r ((fb[r]).set c b)

/-- Every pixel off (R17). -/
def FrameBuffer.allOff : FrameBuffer := Vector.replicate 32 (Vector.replicate 64 false)

/-! ## Program counter (40_step_and_control.md R86) -/

/-- `PC <- PC + 2`, the common advance. -/
def State.advance (s : State) : State := { s with pc := s.pc + 2 }

/-- `PC <- PC + 4` if the skip is taken, else `PC <- PC + 2`. -/
def State.skipIf (s : State) (taken : Bool) : State := { s with pc := if taken then s.pc + 4 else s.pc + 2 }

/-- `PC <- target`. The target is not checked here (R97). -/
def State.jump (s : State) (target : Word) : State := { s with pc := target }

/-! ## Reports and the fatal condition (60_exceptions.md R155, R156; 40_step_and_control.md R87) -/

/-- The code of a fatal cause (R151). -/
def FatalCause.code (c : FatalCause) : Nat :=
  match c with
  | .pcRange => 1

/-- The code of a reported anomaly (R151). -/
def Anomaly.code (k : Anomaly) : Nat :=
  match k with
  | .unknownOpcode => 2
  | .stackUnderflow => 3
  | .stackOverflow => 4
  | .dataAddrRange => 5

/-- The code of a record on the report port (R151). -/
def Report.code (r : Report) : Nat :=
  match r with
  | .anomaly k _ _ => k.code
  | .loadTooLong _ => 6

/-- `report(kind, info)`: one record on the report port, nothing else (R156). -/
def State.report (s : State) (r : Report) : State := { s with reports := s.reports ++ [r] }

/-- `NopAnomaly(kind)`: the report `(kind, PC, op)`, then `PC <- PC + 2`, nothing else (R87). -/
def State.nopAnomaly (s : State) (kind : Anomaly) (op : Word) : State :=
  (s.report (.anomaly kind s.pc op)).advance

/-- `PC` is inside [0x200, 0xFFE] (R82). -/
def pcInRange (pc : Word) : Bool := decide (0x200 ≤ pc.toNat) && decide (pc.toNat ≤ 0xFFE)

/-- `raise Fatal(cause, PC)`: the latch is written and the mode becomes Halted; nothing else is written (R155). -/
def State.raiseFatal (s : State) (cause : FatalCause) : State :=
  { s with fault := some ⟨cause, s.pc⟩, mode := .halted }

/-! ## Call stack (10_state.md R14; 40_step_and_control.md R89, R91) -/

/-- Push `w`: `STK[SP] <- w`, `SP <- SP + 1`; none if 16 entries are in use. -/
def State.push (s : State) (w : Word) : Option State :=
  if h : s.sp.val < 16 then
    some { s with stk := s.stk.set s.sp.val w h, sp := ⟨s.sp.val + 1, Nat.succ_lt_succ h⟩ }
  else none

/-- Pop: `SP <- SP - 1`, the entry `STK[SP]` is handed back and stays in `STK`; none if the stack is empty. -/
def State.pop (s : State) : Option (Word × State) :=
  match s.sp with
  | ⟨0, _⟩ => none
  | ⟨n + 1, h⟩ =>
    some (s.stk[n]'(Nat.lt_of_succ_lt_succ h), { s with sp := ⟨n, Nat.lt_of_succ_lt h⟩ })

end Sys2Proof.Machine
end

