-- ==== Sys2Proof/Machine/Flags.lean ====
section
/-! DEFINITION. The results and flags of the register arithmetic (spec/41_alu.md R112): unsigned, 8 bits, modulo 256; and the
order of writes of R113: the result first, then the flag into `VF`. -/

namespace Sys2Proof.Machine

/-- A flag as the byte `VF` holds: 1 or 0 (10_state.md R11). -/
def flagByte (b : Bool) : Byte := if b then 1 else 0

/-- `(a + b) mod 256` (R112). -/
def addResult (a b : Byte) : Byte := BitVec.ofNat 8 (a.toNat + b.toNat)

/-- Carry out of the exact sum: `a + b > 255` (R106, R112). -/
def addCarry (a b : Byte) : Bool := decide (a.toNat + b.toNat > 255)

/-- `(a - b) mod 256` with the mathematical `mod` (R112). -/
def subResult (a b : Byte) : Byte := BitVec.ofInt 8 ((a.toNat : Int) - (b.toNat : Int))

/-- The subtraction flag: minuend greater than subtrahend; `eqFlag` stands for `SUB_EQ_FLAG` when they are equal
(R107, R109). -/
def subFlag (eqFlag : Bool) (a b : Byte) : Bool :=
  if a.toNat > b.toNat then true else if a = b then eqFlag else false

/-- `floor(a / 2)` (R108, R112). -/
def shrResult (a : Byte) : Byte := BitVec.ofNat 8 (a.toNat / 2)

/-- The bit shifted out to the right, `a[0]` (R108). -/
def shrOut (a : Byte) : Bool := a.getLsbD 0

/-- `(2 * a) mod 256` (R110, R112). -/
def shlResult (a : Byte) : Byte := BitVec.ofNat 8 (2 * a.toNat)

/-- The bit shifted out to the left, `a[7]` (R110). -/
def shlOut (a : Byte) : Bool := a.getLsbD 7

/-- The result into `V[x]`, then the flag into `VF`, then `PC + 2`: with `x = 15` the flag is what remains (R113). -/
def State.writeWithFlag (s : State) (x : RegIx) (result : Byte) (flag : Bool) : State :=
  ((s.setReg x result).setReg vf (flagByte flag)).advance

/-- The result into `V[x]`, then `PC + 2`; no flag (41_alu.md R100 to R105). -/
def State.writeNoFlag (s : State) (x : RegIx) (result : Byte) : State := (s.setReg x result).advance

end Sys2Proof.Machine
end

