-- ==== Sys2Proof/Machine/Alu.lean ====
section
/-! DEFINITION. Register load, arithmetic, logic, shift and random instructions (spec/41_alu.md R100 to R113). None of them
reports or stops; each ends with `PC <- PC + 2`. -/

namespace Sys2Proof.Machine

/-- `LD Vx, kk` (R100). -/
def execLdVxKk (x : RegIx) (kk : Byte) (s : State) : StepResult :=
  .next (s.writeNoFlag x kk)

/-- `ADD Vx, kk`: modulo 256, the carry is discarded and `VF` is not written (R101). -/
def execAddVxKk (x : RegIx) (kk : Byte) (s : State) : StepResult :=
  .next (s.writeNoFlag x (addResult (s.reg x) kk))

/-- `LD Vx, Vy` (R102). -/
def execLdVxVy (x y : RegIx) (s : State) : StepResult :=
  .next (s.writeNoFlag x (s.reg y))

/-- `OR Vx, Vy`, `VF` kept (R103). -/
def execOrVxVy (x y : RegIx) (s : State) : StepResult :=
  .next (s.writeNoFlag x (s.reg x ||| s.reg y))

/-- `AND Vx, Vy`, `VF` kept (R104). -/
def execAndVxVy (x y : RegIx) (s : State) : StepResult :=
  .next (s.writeNoFlag x (s.reg x &&& s.reg y))

/-- `XOR Vx, Vy`, `VF` kept (R105). -/
def execXorVxVy (x y : RegIx) (s : State) : StepResult :=
  .next (s.writeNoFlag x (s.reg x ^^^ s.reg y))

/-- `ADD Vx, Vy`: the sum, then the carry into `VF` (R106). -/
def execAddVxVy (x y : RegIx) (s : State) : StepResult :=
  .next (s.writeWithFlag x (addResult (s.reg x) (s.reg y)) (addCarry (s.reg x) (s.reg y)))

/-- `SUB Vx, Vy`: `V[x] - V[y]`, then the flag into `VF` (R107). -/
def execSubVxVy (x y : RegIx) (s : State) : StepResult :=
  .next (s.writeWithFlag x (subResult (s.reg x) (s.reg y)) (subFlag Config.subEqFlag (s.reg x) (s.reg y)))

/-- `SHR Vx`: `V[x]` shifted right by 1, the bit out into `VF`; `y` is neither read nor written (R108). -/
def execShrVx (x _y : RegIx) (s : State) : StepResult :=
  .next (s.writeWithFlag x (shrResult (s.reg x)) (shrOut (s.reg x)))

/-- `SUBN Vx, Vy`: `V[y] - V[x]`, then the flag into `VF` (R109). -/
def execSubnVxVy (x y : RegIx) (s : State) : StepResult :=
  .next (s.writeWithFlag x (subResult (s.reg y) (s.reg x)) (subFlag Config.subEqFlag (s.reg y) (s.reg x)))

/-- `SHL Vx`: `V[x]` shifted left by 1, the bit out into `VF`; `y` is neither read nor written (R110). -/
def execShlVx (x _y : RegIx) (s : State) : StepResult :=
  .next (s.writeWithFlag x (shlResult (s.reg x)) (shlOut (s.reg x)))

/-- `RND Vx, kk`: a fresh free byte masked by `kk` (R111, log entry 1). -/
def execRnd (x : RegIx) (kk : Byte) (s : State) : StepResult :=
  .next (({ s with draws := s.draws + 1 } : State).writeNoFlag x (Config.randByte s.draws &&& kk))

end Sys2Proof.Machine
end

