-- ==== Sys2Proof/Machine/Operands.lean ====
section
/-! DEFINITION. The operand forms (spec/30_encoding.md R63): the zero-extended address operand, key and glyph numbers taken
from the low nibble of a register, the addresses `I + k` of 42_index_memory.md R126 with their range check, and the
register block `V0..Vx`. -/

namespace Sys2Proof.Machine

/-- `zext_16(nnn)` (R63). -/
def zextAddr (nnn : Addr) : Word := nnn.setWidth 16

/-- The low nibble of a register as a key number, 0..15 (44_keypad_timers.md R140, R141, D11). -/
def keyNumber (b : Byte) : Nibble := b.setWidth 4

/-- The address of the glyph of the low nibble of `b`: `5 * (b mod 16)` (42_index_memory.md R122, D10). -/
def glyphAddr (b : Byte) : Word := BitVec.ofNat 16 (5 * (b.toNat % 16))

/-- A host key identifier reduced to its low 4 bits (60_exceptions.md R170). -/
def keyIdent (k : Int) : Nibble := BitVec.ofInt 4 k

/-- The number of the `k`-th register of a block, `k ≤ 15`. -/
def blockReg (k : Nat) : RegIx := BitVec.ofNat 4 k

/-- `EA_k = I + k`, computed exactly, without wrap (R126). -/
def State.dataAddr (s : State) (k : Nat) : Nat := s.i.toNat + k

/-- The highest address an access of `n` bytes at `I` touches is inside memory; no byte is no access (20_memory.md R47). -/
def State.dataInRange (s : State) (n : Nat) : Bool := n == 0 || decide (s.dataAddr (n - 1) ≤ 0xFFF)

/-- Registers `V[0] .. V[n-1]` written to `I .. I+n-1`, `V[0]` first (42_index_memory.md R124). -/
def State.storeBlock (s : State) (n : Nat) : State :=
  { s with mem := (List.range n).foldl (fun m k => Memory.write m (s.dataAddr k) (s.reg (blockReg k))) s.mem }

/-- Registers `V[0] .. V[n-1]` read from `I .. I+n-1`, `V[0]` first (42_index_memory.md R125). -/
def State.loadBlock (s : State) (n : Nat) : State :=
  (List.range n).foldl (fun t k => t.setReg (blockReg k) (Memory.read s.mem (s.dataAddr k))) s

/-- The three BCD digits of a byte: hundreds, tens, ones (42_index_memory.md R123). -/
def bcdDigits (b : Byte) : List Byte :=
  [BitVec.ofNat 8 (b.toNat / 100), BitVec.ofNat 8 (b.toNat / 10 % 10), BitVec.ofNat 8 (b.toNat % 10)]

/-- The lowest key whose event bit is set (44_keypad_timers.md R142, D12). -/
def KeyBits.lowest (ks : KeyBits) : Option Nibble :=
  ((List.range 16).map (BitVec.ofNat 4)).find? (KeyBits.get ks)

/-- The pixel of column `c` of a sprite row: bit `7 - c` (43_display.md R132). -/
def spriteBit (b : Byte) (c : Nat) : Bool := b.getLsbD (7 - c)

/-- The framebuffer row of sprite row `r`: `(V[y] + r) mod 32` (R132). -/
def wrapRow (y0 : Byte) (r : Nat) : Fin 32 := Fin.ofNat 32 (y0.toNat + r)

/-- The framebuffer column of sprite column `c`: `(V[x] + c) mod 64` (R132). -/
def wrapCol (x0 : Byte) (c : Nat) : Fin 64 := Fin.ofNat 64 (x0.toNat + c)

end Sys2Proof.Machine
end

