-- ==== Sys2Proof/Machine/Control.lean ====
section
/-! DEFINITION. The control-transfer instructions (spec/40_step_and_control.md R88 to R97). `op` in a report is the
instruction's own word, `encode i`, which is the word a step fetched (30_encoding.md R64). -/

namespace Sys2Proof.Machine

/-- `SYS nnn`: always the reported no-op `UNKNOWN_OPCODE` (R88). -/
def execSys (nnn : Addr) (s : State) : StepResult :=
  .next (s.nopAnomaly .unknownOpcode (encode (.sys nnn)))

/-- `RET`: pop `P`, `PC <- P + 2`; on an empty stack the reported no-op `STACK_UNDERFLOW` (R89, C1). -/
def execRet (s : State) : StepResult :=
  match s.pop with
  | some (p, t) => .next (t.jump (p + 2))
  | none => .next (s.nopAnomaly .stackUnderflow (encode .ret))

/-- `JP nnn`: `PC <- zext_16(nnn)` (R90). -/
def execJp (nnn : Addr) (s : State) : StepResult :=
  .next (s.jump (zextAddr nnn))

/-- `CALL nnn`: push the address of this `CALL`, `PC <- zext_16(nnn)`; on a full stack the reported no-op
`STACK_OVERFLOW` (R91). -/
def execCall (nnn : Addr) (s : State) : StepResult :=
  match s.push s.pc with
  | some t => .next (t.jump (zextAddr nnn))
  | none => .next (s.nopAnomaly .stackOverflow (encode (.call nnn)))

/-- `SE Vx, kk`: skip if `V[x] = kk` (R92). -/
def execSeVxKk (x : RegIx) (kk : Byte) (s : State) : StepResult :=
  .next (s.skipIf (s.reg x == kk))

/-- `SNE Vx, kk`: skip if `V[x] ≠ kk` (R93). -/
def execSneVxKk (x : RegIx) (kk : Byte) (s : State) : StepResult :=
  .next (s.skipIf (s.reg x != kk))

/-- `SE Vx, Vy`: skip if `V[x] = V[y]` (R94). -/
def execSeVxVy (x y : RegIx) (s : State) : StepResult :=
  .next (s.skipIf (s.reg x == s.reg y))

/-- `SNE Vx, Vy`: skip if `V[x] ≠ V[y]` (R95). -/
def execSneVxVy (x y : RegIx) (s : State) : StepResult :=
  .next (s.skipIf (s.reg x != s.reg y))

/-- `JP V0, nnn`: `PC <- zext_16(nnn) + V[0]`, exact: at most 0x10FE, so the 16-bit sum does not wrap (R96). -/
def execJpV0 (nnn : Addr) (s : State) : StepResult :=
  .next (s.jump (zextAddr nnn + (s.reg 0).setWidth 16))

end Sys2Proof.Machine
end

