-- ==== Sys2Proof/Machine/Display.lean ====
section
/-! DEFINITION. Display instructions (spec/43_display.md R130 to R132). -/

namespace Sys2Proof.Machine

/-- The framebuffer being drawn on and whether an on pixel has been turned off so far (R131). -/
structure Canvas where
  fb : FrameBuffer
  hit : Bool
deriving DecidableEq, Repr

/-- One sprite pixel that is on: collision if the target was on, then the target is inverted (R131). -/
def plotPixel (row : Fin 32) (col : Fin 64) (c : Canvas) : Canvas where
  fb := c.fb.setPixel row col (!c.fb.pixel row col)
  hit := c.hit || c.fb.pixel row col

/-- One sprite row of 8 pixels, left to right (R131, R132). -/
def drawRow (row : Fin 32) (x0 : Byte) (bits : Byte) (c : Canvas) : Canvas :=
  (List.range 8).foldl (fun c k => if spriteBit bits k then plotPixel row (wrapCol x0 k) c else c) c

/-- `n` sprite rows read from `I` up, top to bottom, the hit flag starting at 0 (R131). -/
def State.drawSprite (s : State) (x0 y0 : Byte) (n : Nat) : Canvas :=
  (List.range n).foldl (fun c r => drawRow (wrapRow y0 r) x0 (Memory.read s.mem (s.dataAddr r)) c) ⟨s.fb, false⟩

/-- `CLS`: every pixel off, `DIRTY <- 1` (R130). -/
def execCls (s : State) : StepResult :=
  .next ({ s with fb := FrameBuffer.allOff, dirty := true } : State).advance

/-- `DRW Vx, Vy, n`: both coordinates are read, the sprite is drawn, `VF` gets the collision, `DIRTY <- 1`; if the last
sprite byte lies above 0xFFF the reported no-op (R131). -/
def execDrw (x y : RegIx) (n : Nibble) (s : State) : StepResult :=
  if s.dataInRange n.toNat then
    let c := s.drawSprite (s.reg x) (s.reg y) n.toNat
    .next (({ s with fb := c.fb, dirty := true } : State).setReg vf (flagByte c.hit)).advance
  else .next (s.nopAnomaly .dataAddrRange (encode (.drw x y n)))

end Sys2Proof.Machine
end

