-- ==== Sys2Proof/Machine/IndexMemory.lean ====
section
/-! DEFINITION. Index-register and memory instructions (spec/42_index_memory.md R120 to R126). -/

namespace Sys2Proof.Machine

/-- `LD I, nnn` (R120). -/
def execLdI (nnn : Addr) (s : State) : StepResult :=
  .next ({ s with i := zextAddr nnn } : State).advance

/-- `ADD I, Vx`: modulo 65536, `VF` not written (R121). -/
def execAddIVx (x : RegIx) (s : State) : StepResult :=
  .next ({ s with i := s.i + (s.reg x).setWidth 16 } : State).advance

/-- `LD F, Vx`: the address of the glyph of `V[x] mod 16` (R122). -/
def execLdFVx (x : RegIx) (s : State) : StepResult :=
  .next ({ s with i := glyphAddr (s.reg x) } : State).advance

/-- `LD B, Vx`: the three decimal digits to `I`, `I+1`, `I+2`; out of range the reported no-op (R123, R126). -/
def execLdBVx (x : RegIx) (s : State) : StepResult :=
  if s.dataInRange 3 then
    .next ({ s with mem := Memory.writeBytes s.mem (s.dataAddr 0) (bcdDigits (s.reg x)) } : State).advance
  else .next (s.nopAnomaly .dataAddrRange (encode (.ldBVx x)))

/-- `LD [I], Vx`: `V0..Vx` to `I..I+x`, `I` unchanged; out of range the reported no-op (R124, R126). -/
def execLdMemVx (x : RegIx) (s : State) : StepResult :=
  if s.dataInRange (x.toNat + 1) then .next (s.storeBlock (x.toNat + 1)).advance
  else .next (s.nopAnomaly .dataAddrRange (encode (.ldMemVx x)))

/-- `LD Vx, [I]`: `V0..Vx` from `I..I+x`, `I` unchanged; out of range the reported no-op (R125, R126). -/
def execLdVxMem (x : RegIx) (s : State) : StepResult :=
  if s.dataInRange (x.toNat + 1) then .next (s.loadBlock (x.toNat + 1)).advance
  else .next (s.nopAnomaly .dataAddrRange (encode (.ldVxMem x)))

end Sys2Proof.Machine
end

