-- ==== Sys2Proof/Machine/KeypadTimers.lean ====
section
/-! DEFINITION. Keypad and timer instructions (spec/44_keypad_timers.md R140 to R145). -/

namespace Sys2Proof.Machine

/-- `SKP Vx`: skip if key `V[x] mod 16` is down (R140). -/
def execSkp (x : RegIx) (s : State) : StepResult :=
  .next (s.skipIf (KeyBits.get s.keys (keyNumber (s.reg x))))

/-- `SKNP Vx`: skip if key `V[x] mod 16` is up (R141). -/
def execSknp (x : RegIx) (s : State) : StepResult :=
  .next (s.skipIf (!KeyBits.get s.keys (keyNumber (s.reg x))))

/-- `LD Vx, K`: in Running it enters the wait and clears the event bits, `PC` unchanged; while waiting it captures the
lowest key with an event, or does nothing (R142). In Halted no step is dispatched (40_step_and_control.md R80). -/
def execLdVxK (x : RegIx) (s : State) : StepResult :=
  match s.mode with
  | .running => .next { s with mode := .waitingForKeypress, keyEvt := KeyBits.clear }
  | .waitingForKeypress =>
    match KeyBits.lowest s.keyEvt with
    | some k => .next (({ s with mode := .running } : State).setReg x (k.setWidth 8)).advance
    | none => .next s
  | .halted => .fault (.halted s.fault)

/-- `LD Vx, DT` (R143). -/
def execLdVxDt (x : RegIx) (s : State) : StepResult :=
  .next (s.setReg x s.dt).advance

/-- `LD DT, Vx` (R144). -/
def execLdDtVx (x : RegIx) (s : State) : StepResult :=
  .next ({ s with dt := s.reg x } : State).advance

/-- `LD ST, Vx` (R145). -/
def execLdStVx (x : RegIx) (s : State) : StepResult :=
  .next ({ s with st := s.reg x } : State).advance

end Sys2Proof.Machine
end

