-- ==== Sys2Proof/Machine/Fetch.lean ====
section
/-! DEFINITION. The part of `Step()` before an instruction executes (spec/40_step_and_control.md R81 items 1 to 5): the mode,
the PC check, fetch, decode, and the words that select no instruction. Machine/Step.lean only calls it. -/

namespace Sys2Proof.Machine

/-- The two bytes at `PC` (R83). -/
def State.fetchBytes (s : State) : List Byte :=
  [Memory.read s.mem s.pc.toNat, Memory.read s.mem (s.pc.toNat + 1)]

/-- `op <- MemRead(PC, 2)` (R83). -/
def State.fetchOp (s : State) : Word := Memory.readWord s.mem s.pc.toNat

/-- What the step does after the fetch. -/
inductive Fetched where
  /-- The step is over with this outcome. -/
  | answer (r : StepResult)
  /-- This instruction is executed. -/
  | run (i : Instr)

/-- An instruction while waiting must be the key wait (R85, D36, U8, log entry 8). -/
def Instr.isKeyWait (i : Instr) : Bool :=
  match i with
  | .ldVxK _ => true
  | _ => false

/-- Decoding of the fetched bytes: the instruction runs; a word that selects none is the reported no-op `UNKNOWN_OPCODE`
(30_encoding.md R66); while waiting, any word but the key wait is refused (R85). -/
def State.decodeFetched (s : State) : Fetched :=
  match decode s.fetchBytes with
  | .ok (i, _) =>
    if s.mode = .waitingForKeypress ∧ Instr.isKeyWait i = false then
      .answer (.refused (.waitingOnOtherWord s.fetchOp))
    else .run i
  | .error _ =>
    if s.mode = .waitingForKeypress then .answer (.refused (.waitingOnOtherWord s.fetchOp))
    else .answer (.next (s.nopAnomaly .unknownOpcode s.fetchOp))

/-- The step up to execution: no step in Halted (R80); `PC` outside [0x200, 0xFFE] is fatal and nothing is fetched
(R82, 60_exceptions.md R155); else fetch and decode. -/
def State.fetch (s : State) : Fetched :=
  if s.mode = .halted then .answer (.fault (.halted s.fault))
  else if pcInRange s.pc then s.decodeFetched
  else .answer (.next (s.raiseFatal .pcRange))

/-- Memory with the word `op` at address `a`, high byte first (20_memory.md R44). -/
def Memory.placeWord (m : Memory) (a : Nat) (op : Word) : Memory := Memory.writeBytes m a [hiByte op, loByte op]

end Sys2Proof.Machine
end

