-- ==== Sys2Proof/Machine/Step.lean ====
section
/-! DEFINITION. One CPU step, the spec's `Step()` (spec/40_step_and_control.md R81). -/

namespace Sys2Proof.Machine

/-- `Step()`: check, fetch, decode (`State.fetch`), then execute; the step adds nothing around `exec` (R81). -/
def step (s : State) : Host.Outcome State Fault Refusal :=
  match s.fetch with
  | .answer r => r
  | .run i => exec i s

/-- `s` with the instruction of the table word `w` stored at `PC`, where the next step fetches it. -/
def State.withFetchWord (s : State) (nbits w : Nat) : State :=
  { s with mem := Memory.placeWord s.mem s.pc.toNat (tableWord nbits w) }

end Sys2Proof.Machine
end

