-- ==== Sys2Proof/Machine/Boot.lean ====
section
/-! DEFINITION. The host operations Reset and Load (spec/70_reset_and_hazards.md R190 to R194). Reset is the only way out of
Halted (60_exceptions.md R159). -/

namespace Sys2Proof.Machine

/-- The state immediately after a Reset of a machine whose parameter `FONT` is `font`: its 80 bytes are written to
[0x000, 0x050), everything else is as R26 says (00_scope.md R6, 20_memory.md R43, log entry 2). -/
def State.resetWith (font : FontTable) : State :=
  { State.reset with mem := Memory.writeBytes State.reset.mem 0 font.toList }

/-- `Reset()`: every piece of state at its value of R26, the configured `FONT` rewritten (R190). The draw counter alone goes on,
so that the bytes drawn after a Reset are not those drawn before it (log entry 1). -/
def State.hostReset (s : State) (p : Params) : State := { State.resetWith p.font with draws := s.draws }

/-- What `Load` returns to the host (R192, R193). -/
inductive LoadResult where
  | ok
  /-- An error: the sequence is longer than 0xE00 bytes. -/
  | tooLong
deriving DecidableEq, Repr

/-- The base address and the budget of `Load` (00_scope.md R5). -/
def loadBase : Nat := 0x200

/-- The largest number of bytes `Load` accepts (00_scope.md R5). -/
def loadBudget : Nat := 0xE00

/-- `Load(bytes)`: legal once, after Reset and before the first `Update`, never while waiting or in Halted (R194); too long, it
writes nothing and is reported (R193); else the bytes go to 0x200 up and nothing else changes (R192). -/
def State.load (s : State) (bytes : List Byte) : Host.Outcome (State × LoadResult) Fault Refusal :=
  if s.loadable ∧ s.mode = .running then
    if bytes.length ≤ loadBudget then
      .next ({ s with mem := Memory.writeBytes s.mem loadBase bytes, loadable := false }, .ok)
    else .next ({ s.report (.loadTooLong bytes.length) with loadable := false }, .tooLong)
  else .refused .loadOutOfLifecycle

end Sys2Proof.Machine
end

