-- ==== Sys2Proof/Machine/Clock.lean ====
section
/-! DEFINITION. The clock/scheduler and the host operation Update (spec/60_exceptions.md R162 to R168). -/

namespace Sys2Proof.Machine

/-- `CPU_HZ = min(CPU_HZ_CFG, 1000)` (R162). -/
def cpuHz (p : Params) : Nat := min p.cpuHzCfg 1000

/-- The fixed timer rate (00_scope.md R5, R162). -/
def timerHz : Nat := 60

/-- `TimerTick()`: each timer down by 1, floored at 0 (R163). -/
def State.timerTick (s : State) : State :=
  { s with dt := if s.dt = 0 then 0 else s.dt - 1, st := if s.st = 0 then 0 else s.st - 1 }

/-- What `Update` returns (R168). -/
inductive UpdateResult where
  /-- The number of steps executed. -/
  | steps (n : Nat)
  /-- `Fatal(FAULT)`. -/
  | fatal (latch : Option FatalRecord)
deriving DecidableEq, Repr

/-- The first lines of `Update`: the delta is added to both accumulators (R164). -/
def State.addElapsed (s : State) (p : Params) (tNow : Nat) : State :=
  { s with
    tLast := tNow
    accTmr := s.accTmr + (tNow - s.tLast) * timerHz
    accCpu := s.accCpu + (tNow - s.tLast) * cpuHz p }

/-- How many whole periods an accumulator holds: the number of iterations of either loop (R164, R166). -/
def duePeriods (p : Params) (acc : Nat) : Nat := acc / p.timebaseHz

/-- The timer loop: each iteration subtracts one period and applies one tick (R164). -/
def State.timerLoop (s : State) (p : Params) (due : Nat) : State :=
  match due with
  | 0 => s
  | n + 1 => State.timerLoop ({ s with accTmr := s.accTmr - p.timebaseHz } : State).timerTick p n

/-- The CPU loop: each iteration subtracts one period and executes one step; it ends at once in Halted, and the failing step
is not counted (R164, R167). -/
def State.cpuLoop (s : State) (p : Params) (due count : Nat) : Host.Outcome (State × UpdateResult) Fault Refusal :=
  match due with
  | 0 => .next (s, .steps count)
  | n + 1 =>
    match step { s with accCpu := s.accCpu - p.timebaseHz } with
    | .next t => if t.mode = .halted then .next (t, .fatal t.fault) else State.cpuLoop t p n (count + 1)
    | .fault f => .fault f
    | .refused r => .refused r

/-- `Update(t_now)`: in Halted it changes nothing and returns the fault (R167); else all due ticks, then all due steps
(R164). A time before `T_LAST` has no meaning (D35, U10). From here on Load is no longer legal (70_reset_and_hazards.md
R194). -/
def State.update (s : State) (p : Params) (tNow : Nat) : Host.Outcome (State × UpdateResult) Fault Refusal :=
  if s.mode = .halted then .next (s, .fatal s.fault)
  else if tNow < s.tLast then .refused (.timeWentBack tNow s.tLast)
  else
    let s1 := ({ s with loadable := false } : State).addElapsed p tNow
    let s2 := s1.timerLoop p (duePeriods p s1.accTmr)
    s2.cpuLoop p (duePeriods p s2.accCpu) 0

end Sys2Proof.Machine
end

