-- ==== Sys2Proof/Machine/Frames.lean ====
section
/-! DEFINITION. Frame read-out (spec/60_exceptions.md R173 to R175). -/

namespace Sys2Proof.Machine

/-- `pack8`: eight pixels, the leftmost in bit 7 (R174). -/
def pack8 (bits : List Bool) : Byte :=
  BitVec.ofNat 8 (bits.foldl (fun n b => 2 * n + (if b then 1 else 0)) 0)

/-- The pixels of columns `8*g .. 8*g+7` of row `r`, left to right (R174). -/
def FrameBuffer.group (fb : FrameBuffer) (r : Fin 32) (g : Fin 8) : List Bool :=
  (List.range 8).map (fun b => fb.pixel r (Fin.ofNat 64 (8 * g.val + b)))

/-- Byte `k` of the packed display frame: the tag, then 8 bytes a row, rows and groups ascending (R173, R174). -/
def displayByte (tag : Byte) (fb : FrameBuffer) (k : Nat) : Byte :=
  if k = 0 then tag else pack8 (fb.group (Fin.ofNat 32 ((k - 1) / 8)) (Fin.ofNat 8 ((k - 1) % 8)))

/-- The packed display frame, 257 bytes (R173). -/
def packDisplay (tag : Byte) (fb : FrameBuffer) : Vector Byte 257 :=
  Vector.ofFn (fun k : Fin 257 => displayByte tag fb k.val)

/-- `ReadDisplayFrame()`: repacks if dirty and clears the flag, then returns the cache (R173). -/
def State.readDisplayFrame (s : State) (p : Params) : State × Vector Byte 257 :=
  if s.dirty then
    let packed := packDisplay p.displayTag s.fb
    ({ s with packed := packed, dirty := false }, packed)
  else (s, s.packed)

/-- `ReadDebugFrame()`: the tag and the 4096 bytes of memory in address order; no side effect (R175). -/
def State.readDebugFrame (s : State) (p : Params) : List Byte :=
  p.debugTag :: (List.range memSize).map (Memory.read s.mem)

end Sys2Proof.Machine
end

