-- ==== Sys2Proof/Machine/Keypad.lean ====
section
/-! DEFINITION. The keypad port (spec/60_exceptions.md R170 to R172). -/

namespace Sys2Proof.Machine

/-- `PressKey(k)`: `KEY` and `KEYEVT` of the low 4 bits set, in every mode (R170). -/
def State.pressKey (s : State) (k : Int) : State :=
  { s with keys := KeyBits.put s.keys (keyIdent k) true, keyEvt := KeyBits.put s.keyEvt (keyIdent k) true }

/-- `UnpressKey(k)`: `KEY` of the low 4 bits cleared, `KEYEVT` unchanged (R171). -/
def State.unpressKey (s : State) (k : Int) : State :=
  { s with keys := KeyBits.put s.keys (keyIdent k) false }

end Sys2Proof.Machine
end

