-- ==== Sys2Proof/Machine/HostPort.lean ====
section
/-! DEFINITION. The host interface in one table (spec/60_exceptions.md R177): every operation is atomic and happens between
steps (20_memory.md R50); the host has no other access. -/

namespace Sys2Proof.Machine

/-- The host operations of R177. -/
inductive HostOp where
  | reset
  | load (bytes : List Byte)
  | update (tNow : Nat)
  | pressKey (k : Int)
  | unpressKey (k : Int)
  | readDisplayFrame
  | readDebugFrame
deriving DecidableEq, Repr

/-- What an operation returns (R177, column "result"). -/
inductive HostReply where
  | none
  | load (r : LoadResult)
  | update (r : UpdateResult)
  | frame (bytes : List Byte)
deriving DecidableEq, Repr

/-- One host operation on the machine with configuration `p` (R177). -/
def hostOp (p : Params) (op : HostOp) (s : State) : Host.Outcome (State × HostReply) Fault Refusal :=
  match op with
  | .reset => .next (s.hostReset p, .none)
  | .load bytes =>
    match s.load bytes with
    | .next (t, r) => .next (t, .load r)
    | .fault f => .fault f
    | .refused r => .refused r
  | .update tNow =>
    match s.update p tNow with
    | .next (t, r) => .next (t, .update r)
    | .fault f => .fault f
    | .refused r => .refused r
  | .pressKey k => .next (s.pressKey k, .none)
  | .unpressKey k => .next (s.unpressKey k, .none)
  | .readDisplayFrame =>
    let r := s.readDisplayFrame p
    .next (r.1, .frame r.2.toList)
  | .readDebugFrame => .next (s, .frame (s.readDebugFrame p))

end Sys2Proof.Machine
end

