-- ==== Sys2Proof/Safety.lean ====
section
/-! DEFINITION. The terms claims are stated in: what a reported no-op leaves, what an instruction may change (the table of
spec/10_state.md R27), where it leaves `PC` (40_step_and_control.md R86), the opcode map as the spec prints it
(30_encoding.md R64), the loops of `Update` as the spec prints them (60_exceptions.md R164), the pixels a sprite covers
(43_display.md R131, R132), and the invariants of a run. -/

namespace Sys2Proof.Safety

open Sys2Proof Sys2Proof.Machine

/-- `PC` is inside [0x200, 0xFFE] (40_step_and_control.md R82). -/
abbrev inFetchWindow (pc : Word) : Prop := 0x200 ≤ pc.toNat ∧ pc.toNat ≤ 0xFFE

/-- The state after `NopAnomaly(kind)` for the word `op`: one record, `PC + 2`, nothing else (40_step_and_control.md R87). -/
def nopState (kind : Anomaly) (op : Word) (s : State) : State :=
  { s with reports := s.reports ++ [.anomaly kind s.pc op], pc := s.pc + 2 }

/-- The state after the fatal entry: the latch and the mode, nothing else (60_exceptions.md R155). -/
def fatalState (s : State) : State :=
  { s with fault := some ⟨.pcRange, s.pc⟩, mode := .halted }

/-! ## What an instruction may change (10_state.md R27) -/

/-- The pieces of state that may change beside `PC`. Everything not listed here never changes in an instruction. -/
structure Footprint where
  /-- General registers. -/
  regs : List RegIx := []
  /-- `I`. -/
  index : Bool := false
  /-- `SP`. -/
  sp : Bool := false
  /-- Entries of `STK`. -/
  entries : List Nat := []
  /-- `DT`. -/
  dt : Bool := false
  /-- `ST`. -/
  st : Bool := false
  /-- Addresses of memory stored to. -/
  cells : List Nat := []
  /-- `FB`. -/
  fb : Bool := false
  /-- `DIRTY`. -/
  dirty : Bool := false
  /-- `KEYEVT`. -/
  keyEvt : Bool := false
  /-- `MODE`. -/
  mode : Bool := false
  /-- The report port. -/
  reports : Bool := false
  /-- The draw counter. -/
  draws : Bool := false

/-- `t` differs from `s` in `PC` and inside the footprint only; memory is compared byte by byte through the read. -/
structure Keeps (f : Footprint) (s t : State) : Prop where
  regs : ∀ k, k ∉ f.regs → t.reg k = s.reg k
  index : f.index = false → t.i = s.i
  sp : f.sp = false → t.sp = s.sp
  entries : ∀ n : Fin 16, n.val ∉ f.entries → t.stk[n] = s.stk[n]
  dt : f.dt = false → t.dt = s.dt
  st : f.st = false → t.st = s.st
  cells : ∀ a, a ∉ f.cells → Memory.read t.mem a = Memory.read s.mem a
  fb : f.fb = false → t.fb = s.fb
  dirty : f.dirty = false → t.dirty = s.dirty
  packed : t.packed = s.packed
  keys : t.keys = s.keys
  keyEvt : f.keyEvt = false → t.keyEvt = s.keyEvt
  mode : f.mode = false → t.mode = s.mode
  fault : t.fault = s.fault
  tLast : t.tLast = s.tLast
  accCpu : t.accCpu = s.accCpu
  accTmr : t.accTmr = s.accTmr
  reports : f.reports = false → t.reports = s.reports
  draws : f.draws = false → t.draws = s.draws
  loadable : t.loadable = s.loadable

/-- The registers `V0 .. Vx` of a block (42_index_memory.md R124, R125). -/
def blockRegs (x : RegIx) : List RegIx := (List.range (x.toNat + 1)).map blockReg

/-- The addresses `I .. I+n-1`. -/
def dataCells (s : State) (n : Nat) : List Nat := (List.range n).map (fun k => s.i.toNat + k)

/-- The column "writes" of the table of R27, one arm per instruction. -/
def footprintOf (i : Instr) (s : State) : Footprint :=
  match i with
  | .sys _ => { reports := true }
  | .cls => { fb := true, dirty := true }
  | .ret => { sp := true, reports := true }
  | .jp _ => {}
  | .call _ => { sp := true, entries := [s.sp.val], reports := true }
  | .seVxKk _ _ => {}
  | .sneVxKk _ _ => {}
  | .seVxVy _ _ => {}
  | .ldVxKk x _ => { regs := [x] }
  | .addVxKk x _ => { regs := [x] }
  | .ldVxVy x _ => { regs := [x] }
  | .orVxVy x _ => { regs := [x] }
  | .andVxVy x _ => { regs := [x] }
  | .xorVxVy x _ => { regs := [x] }
  | .addVxVy x _ => { regs := [x, 0xF] }
  | .subVxVy x _ => { regs := [x, 0xF] }
  | .shrVx x _ => { regs := [x, 0xF] }
  | .subnVxVy x _ => { regs := [x, 0xF] }
  | .shlVx x _ => { regs := [x, 0xF] }
  | .sneVxVy _ _ => {}
  | .ldI _ => { index := true }
  | .jpV0 _ => {}
  | .rnd x _ => { regs := [x], draws := true }
  | .drw _ _ _ => { regs := [0xF], fb := true, dirty := true, reports := true }
  | .skp _ => {}
  | .sknp _ => {}
  | .ldVxDt x => { regs := [x] }
  | .ldVxK x => { regs := [x], mode := true, keyEvt := true }
  | .ldDtVx _ => { dt := true }
  | .ldStVx _ => { st := true }
  | .addIVx _ => { index := true }
  | .ldFVx _ => { index := true }
  | .ldBVx _ => { cells := dataCells s 3, reports := true }
  | .ldMemVx x => { cells := dataCells s (x.toNat + 1), reports := true }
  | .ldVxMem x => { regs := blockRegs x, reports := true }

/-- The instructions that write `VF` as a flag (10_state.md R11). -/
def writesFlag (i : Instr) : Bool :=
  match i with
  | .addVxVy _ _ | .subVxVy _ _ | .subnVxVy _ _ | .shrVx _ _ | .shlVx _ _ | .drw _ _ _ => true
  | _ => false

/-- The registers an instruction writes as its own destination, flags left aside (10_state.md R11, R27). -/
def destinations (i : Instr) : List RegIx :=
  match i with
  | .ldVxKk x _ | .addVxKk x _ | .rnd x _ | .ldVxDt x | .ldVxK x => [x]
  | .ldVxVy x _ | .orVxVy x _ | .andVxVy x _ | .xorVxVy x _ => [x]
  | .addVxVy x _ | .subVxVy x _ | .subnVxVy x _ | .shrVx x _ | .shlVx x _ => [x]
  | .ldVxMem x => blockRegs x
  | _ => []

/-! ## Where an instruction leaves `PC` (40_step_and_control.md R86) -/

/-- `PC + 4` if the condition holds, else `PC + 2`. -/
def pcAfterSkip (s : State) (taken : Prop) [Decidable taken] : Word := if taken then s.pc + 4 else s.pc + 2

/-- The table of R86, with the conditions of the instructions' own rules. -/
def pcAfter (i : Instr) (s : State) : Word :=
  match i with
  | .jp nnn => nnn.setWidth 16
  | .call nnn => if s.sp.val = 16 then s.pc + 2 else nnn.setWidth 16
  | .jpV0 nnn => nnn.setWidth 16 + (s.reg 0).setWidth 16
  | .ret =>
    match s.sp with
    | ⟨0, _⟩ => s.pc + 2
    | ⟨n + 1, h⟩ => s.stk[n]'(Nat.lt_of_succ_lt_succ h) + 2
  | .seVxKk x kk => pcAfterSkip s (s.reg x = kk)
  | .sneVxKk x kk => pcAfterSkip s (s.reg x ≠ kk)
  | .seVxVy x y => pcAfterSkip s (s.reg x = s.reg y)
  | .sneVxVy x y => pcAfterSkip s (s.reg x ≠ s.reg y)
  | .skp x => pcAfterSkip s (KeyBits.get s.keys ((s.reg x).setWidth 4) = true)
  | .sknp x => pcAfterSkip s (KeyBits.get s.keys ((s.reg x).setWidth 4) = false)
  | .ldVxK _ =>
    if s.mode = .waitingForKeypress ∧ ∃ k, KeyBits.get s.keyEvt k = true then s.pc + 2 else s.pc
  | _ => s.pc + 2

/-! ## The opcode map (30_encoding.md R64) -/

/-- A row of the opcode map: mask, match, and the instruction with its operand fields read off the word. -/
structure OpcodeRow where
  mask : Word
  pattern : Word
  read : Word → Instr

/-- Rows 1 to 10 of R64. -/
def opcodeRows1 : List OpcodeRow := [
  ⟨0xF000, 0x0000, fun op => .sys (op.extractLsb' 0 12)⟩,
  ⟨0xFFFF, 0x00E0, fun _ => .cls⟩,
  ⟨0xFFFF, 0x00EE, fun _ => .ret⟩,
  ⟨0xF000, 0x1000, fun op => .jp (op.extractLsb' 0 12)⟩,
  ⟨0xF000, 0x2000, fun op => .call (op.extractLsb' 0 12)⟩,
  ⟨0xF000, 0x3000, fun op => .seVxKk (op.extractLsb' 8 4) (op.extractLsb' 0 8)⟩,
  ⟨0xF000, 0x4000, fun op => .sneVxKk (op.extractLsb' 8 4) (op.extractLsb' 0 8)⟩,
  ⟨0xF00F, 0x5000, fun op => .seVxVy (op.extractLsb' 8 4) (op.extractLsb' 4 4)⟩,
  ⟨0xF000, 0x6000, fun op => .ldVxKk (op.extractLsb' 8 4) (op.extractLsb' 0 8)⟩,
  ⟨0xF000, 0x7000, fun op => .addVxKk (op.extractLsb' 8 4) (op.extractLsb' 0 8)⟩]

/-- Rows 11 to 20 of R64. -/
def opcodeRows2 : List OpcodeRow := [
  ⟨0xF00F, 0x8000, fun op => .ldVxVy (op.extractLsb' 8 4) (op.extractLsb' 4 4)⟩,
  ⟨0xF00F, 0x8001, fun op => .orVxVy (op.extractLsb' 8 4) (op.extractLsb' 4 4)⟩,
  ⟨0xF00F, 0x8002, fun op => .andVxVy (op.extractLsb' 8 4) (op.extractLsb' 4 4)⟩,
  ⟨0xF00F, 0x8003, fun op => .xorVxVy (op.extractLsb' 8 4) (op.extractLsb' 4 4)⟩,
  ⟨0xF00F, 0x8004, fun op => .addVxVy (op.extractLsb' 8 4) (op.extractLsb' 4 4)⟩,
  ⟨0xF00F, 0x8005, fun op => .subVxVy (op.extractLsb' 8 4) (op.extractLsb' 4 4)⟩,
  ⟨0xF00F, 0x8006, fun op => .shrVx (op.extractLsb' 8 4) (op.extractLsb' 4 4)⟩,
  ⟨0xF00F, 0x8007, fun op => .subnVxVy (op.extractLsb' 8 4) (op.extractLsb' 4 4)⟩,
  ⟨0xF00F, 0x800E, fun op => .shlVx (op.extractLsb' 8 4) (op.extractLsb' 4 4)⟩,
  ⟨0xF00F, 0x9000, fun op => .sneVxVy (op.extractLsb' 8 4) (op.extractLsb' 4 4)⟩]

/-- Rows 21 to 35 of R64. -/
def opcodeRows3 : List OpcodeRow := [
  ⟨0xF000, 0xA000, fun op => .ldI (op.extractLsb' 0 12)⟩,
  ⟨0xF000, 0xB000, fun op => .jpV0 (op.extractLsb' 0 12)⟩,
  ⟨0xF000, 0xC000, fun op => .rnd (op.extractLsb' 8 4) (op.extractLsb' 0 8)⟩,
  ⟨0xF000, 0xD000, fun op => .drw (op.extractLsb' 8 4) (op.extractLsb' 4 4) (op.extractLsb' 0 4)⟩,
  ⟨0xF0FF, 0xE09E, fun op => .skp (op.extractLsb' 8 4)⟩,
  ⟨0xF0FF, 0xE0A1, fun op => .sknp (op.extractLsb' 8 4)⟩,
  ⟨0xF0FF, 0xF007, fun op => .ldVxDt (op.extractLsb' 8 4)⟩,
  ⟨0xF0FF, 0xF00A, fun op => .ldVxK (op.extractLsb' 8 4)⟩,
  ⟨0xF0FF, 0xF015, fun op => .ldDtVx (op.extractLsb' 8 4)⟩,
  ⟨0xF0FF, 0xF018, fun op => .ldStVx (op.extractLsb' 8 4)⟩,
  ⟨0xF0FF, 0xF01E, fun op => .addIVx (op.extractLsb' 8 4)⟩,
  ⟨0xF0FF, 0xF029, fun op => .ldFVx (op.extractLsb' 8 4)⟩,
  ⟨0xF0FF, 0xF033, fun op => .ldBVx (op.extractLsb' 8 4)⟩,
  ⟨0xF0FF, 0xF055, fun op => .ldMemVx (op.extractLsb' 8 4)⟩,
  ⟨0xF0FF, 0xF065, fun op => .ldVxMem (op.extractLsb' 8 4)⟩]

/-- The 35 rows of R64. -/
def opcodeMap : List OpcodeRow := opcodeRows1 ++ opcodeRows2 ++ opcodeRows3

/-- The row is the one the priority of R65 gives the word: rows with mask FFFF go before row 1. -/
def OpcodeRow.selects (row : OpcodeRow) (op : Word) : Prop :=
  op &&& row.mask = row.pattern ∧ (row.mask = 0xFFFF ∨ (op ≠ 0x00E0 ∧ op ≠ 0x00EE))

/-- The table of unrecognised words of R66, by class and sub-opcode. -/
def unrecognised (op : Word) : Prop :=
  ((op.extractLsb' 12 4 = 0x5#4 ∨ op.extractLsb' 12 4 = 0x9#4) ∧ op.extractLsb' 0 4 ≠ 0#4)
  ∨ (op.extractLsb' 12 4 = 0x8#4 ∧ op.extractLsb' 0 4 ∈ [0x8#4, 0x9, 0xA, 0xB, 0xC, 0xD, 0xF])
  ∨ (op.extractLsb' 12 4 = 0xE#4 ∧ op.extractLsb' 0 8 ∉ [0x9E#8, 0xA1])
  ∨ (op.extractLsb' 12 4 = 0xF#4 ∧ op.extractLsb' 0 8 ∉ [0x07#8, 0x0A, 0x15, 0x18, 0x1E, 0x29, 0x33, 0x55, 0x65])

/-! ## Sprites (43_display.md R131, R132) -/

/-- A sprite pixel that is on lands on framebuffer pixel (r, c): some row `k` and column `j` of the `n`-byte sprite at `I` has
its bit on and lands there after the wrap. -/
def Covers (s : State) (x y : RegIx) (n : Nibble) (r : Fin 32) (c : Fin 64) : Prop :=
  ∃ k < n.toNat, ∃ j < 8,
    (Memory.read s.mem (s.i.toNat + k)).getLsbD (7 - j) = true
    ∧ r.val = ((s.reg y).toNat + k) % 32 ∧ c.val = ((s.reg x).toNat + j) % 64

/-- The last byte of the `n`-byte sprite is inside memory, or there is none (R131, 20_memory.md R47). -/
abbrev spriteInRange (s : State) (n : Nibble) : Prop := n.toNat = 0 ∨ s.i.toNat + n.toNat - 1 ≤ 0xFFF

/-! ## The loops of `Update` (60_exceptions.md R164) -/

/-- `while ACC_TMR ≥ TIMEBASE_HZ: ACC_TMR <- ACC_TMR - TIMEBASE_HZ; TimerTick()`. -/
inductive TimerWhile (p : Params) : State → State → Prop where
  | done {s : State} : s.accTmr < p.timebaseHz → TimerWhile p s s
  | tick {s t : State} : p.timebaseHz ≤ s.accTmr →
      TimerWhile p ({ s with accTmr := s.accTmr - p.timebaseHz } : State).timerTick t → TimerWhile p s t

/-- `while ACC_CPU ≥ TIMEBASE_HZ: ACC_CPU <- ACC_CPU - TIMEBASE_HZ; Step(); if Halted return Fatal(FAULT); steps <- steps + 1`,
from a step count to the final state and the result. -/
inductive CpuWhile (p : Params) : State → Nat → State → UpdateResult → Prop where
  | done {s : State} {n : Nat} : s.accCpu < p.timebaseHz → CpuWhile p s n s (.steps n)
  | fatal {s t : State} {n : Nat} : p.timebaseHz ≤ s.accCpu →
      step { s with accCpu := s.accCpu - p.timebaseHz } = .next t → t.mode = .halted →
      CpuWhile p s n t (.fatal t.fault)
  | step {s u t : State} {n : Nat} {r : UpdateResult} : p.timebaseHz ≤ s.accCpu →
      Sys2Proof.Machine.step { s with accCpu := s.accCpu - p.timebaseHz } = .next u → u.mode ≠ .halted →
      CpuWhile p u (n + 1) t r → CpuWhile p s n t r

/-- The state after the first lines of `Update`: `T_LAST <- t_now` and the delta added to both debts; the load permission
ends with the first `Update` (70_reset_and_hazards.md R194). -/
def afterElapsed (p : Params) (tNow : Nat) (s : State) : State :=
  { s with
    tLast := tNow
    accTmr := s.accTmr + (tNow - s.tLast) * 60
    accCpu := s.accCpu + (tNow - s.tLast) * min p.cpuHzCfg 1000
    loadable := false }

/-- The number of timer ticks one `Update(tNow)` applies (R166). -/
def ticksDue (p : Params) (tNow : Nat) (s : State) : Nat :=
  (s.accTmr + (tNow - s.tLast) * 60) / p.timebaseHz

/-- The number of steps one `Update(tNow)` executes if none is fatal (R166). -/
def stepsDue (p : Params) (tNow : Nat) (s : State) : Nat :=
  (s.accCpu + (tNow - s.tLast) * min p.cpuHzCfg 1000) / p.timebaseHz

/-! ## Invariants -/

/-- The packed frame is the packing of the framebuffer, whatever its tag (60_exceptions.md R173, R174). -/
def packedFresh (s : State) : Prop :=
  ∀ (r : Fin 32) (g : Fin 8),
    s.packed[1 + 8 * r.val + g.val]'(by omega) = pack8 (FrameBuffer.group s.fb r g)

/-- What holds between steps in every run. -/
structure Inv (s : State) : Prop where
  /-- Memory is in its canonical form. -/
  memWf : Memory.wf s.mem = true
  /-- `FAULT` is empty while `MODE ≠ Halted` (10_state.md R22). -/
  faultEmpty : s.mode ≠ .halted → s.fault = none
  /-- In Halted the latch holds the offending `PC`, which is still in `PC` and outside the window (60_exceptions.md R155). -/
  faultLatched : s.mode = .halted → s.fault = some ⟨.pcRange, s.pc⟩ ∧ ¬ inFetchWindow s.pc
  /-- `PC` lies in 0x000..0x10FE (10_state.md R13, 40_step_and_control.md R86). -/
  pcBound : s.pc.toNat ≤ 0x10FE
  /-- Every valid stack entry was pushed from a valid `PC` (40_step_and_control.md R89). -/
  stackPc : ∀ n : Fin 16, n.val < s.sp.val → inFetchWindow s.stk[n]
  /-- While waiting the word at `PC` is an `Fx0A` word (40_step_and_control.md R85). -/
  waitWord : s.mode = .waitingForKeypress → inFetchWindow s.pc ∧ ∃ x, decodeWord s.fetchOp = .ok (.ldVxK x)
  /-- `DIRTY = 0` implies `PACKED` is the packing of `FB` (60_exceptions.md R173). -/
  packedFresh : s.dirty = false → packedFresh s

/-- What holds between host operations: the invariant of the steps, the accumulators below one period (60_exceptions.md
R164; the CPU debt of a halted machine is never used, R167), and the tag of a clean packed frame (R173). -/
structure HostInv (p : Params) (s : State) : Prop where
  inv : Inv s
  accTmr : s.accTmr < p.timebaseHz
  accCpu : s.mode ≠ .halted → s.accCpu < p.timebaseHz
  tag : s.dirty = false → s.packed[0] = p.displayTag

end Sys2Proof.Safety
end

