-- ==== Sys2Proof/Certificates/Slice0/Obligations.lean ====
section
/-! DEFINITION. The statements about the machine, taken from the numbered rules of spec/. Each docstring names the rules.
Every statement about an instruction's result concludes that `exec` answers a next state, says what that state holds, and
says with `Keeps` what is unchanged. -/

open Sys2Proof Sys2Proof.Machine Sys2Proof.Safety

/-! ## The step and the decoder -/

/-- R81, R83 to R85: in range and not halted, the two bytes at `PC` that decode to `i` make the step `exec i`, and the step adds
nothing around it; while waiting this is said of the key wait only (R85). -/
def Obligations.StepRunsDecodedInstruction : Prop :=
  ∀ (s : State) (i : Instr) (rest : List Byte),
    s.mode ≠ .halted → inFetchWindow s.pc →
    decode [Memory.read s.mem s.pc.toNat, Memory.read s.mem (s.pc.toNat + 1)] = .ok (i, rest) →
    (s.mode = .running ∨ ∃ x, i = .ldVxK x) →
    step s = exec i s

/-- R44, R83: the word a step decodes is assembled big-endian from the two bytes at `PC`, high byte first, and the bytes are
decoded as that word. -/
def Obligations.FetchIsBigEndian : Prop :=
  ∀ s : State,
    s.fetchOp.toNat = (Memory.read s.mem s.pc.toNat).toNat * 256 + (Memory.read s.mem (s.pc.toNat + 1)).toNat ∧
    ∀ i, decode [Memory.read s.mem s.pc.toNat, Memory.read s.mem (s.pc.toNat + 1)] = .ok (i, []) ↔
      decodeWord s.fetchOp = .ok i

/-- R82, R155, R21: with `PC` outside [0x200, 0xFFE] the step writes the latch and the mode and nothing else; with `PC` inside,
odd or even, no step enters Halted. -/
def Obligations.OnlyPcOutsideWindowIsFatal : Prop :=
  ∀ s : State, s.mode ≠ .halted →
    ((s.pc.toNat < 0x200 ∨ 0xFFE < s.pc.toNat) → step s = .next (fatalState s)) ∧
    (∀ t, inFetchWindow s.pc → step s = .next t → t.mode ≠ .halted)

/-- R80, R159: in Halted no step is dispatched: the model's step answers no next state but the fault that carries the latch (that it is a
fault is the model's choice: log entry 8). -/
def Obligations.HaltedDispatchesNoStep : Prop :=
  ∀ s : State, s.mode = .halted → step s = .fault (.halted s.fault)

/-- A few words written out from R64, one or more of every class, and words of R66. -/
def Obligations.SpecWordsDecode : Prop :=
  decodeWord 0x0123 = .ok (.sys 0x123) ∧ decodeWord 0x00E0 = .ok .cls ∧ decodeWord 0x00EE = .ok .ret ∧
  decodeWord 0x1234 = .ok (.jp 0x234) ∧ decodeWord 0x3A7F = .ok (.seVxKk 0xA 0x7F) ∧
  decodeWord 0x5AB0 = .ok (.seVxVy 0xA 0xB) ∧ decodeWord 0x8AB4 = .ok (.addVxVy 0xA 0xB) ∧
  decodeWord 0x8AB6 = .ok (.shrVx 0xA 0xB) ∧ decodeWord 0xA300 = .ok (.ldI 0x300) ∧
  decodeWord 0xD12F = .ok (.drw 0x1 0x2 0xF) ∧ decodeWord 0xE1A1 = .ok (.sknp 0x1) ∧
  decodeWord 0xF30A = .ok (.ldVxK 0x3) ∧ decodeWord 0xF355 = .ok (.ldMemVx 0x3) ∧
  decodeWord 0x5AB1 = .error (.unrecognised 0x5AB1) ∧ decodeWord 0xF375 = .error (.unrecognised 0xF375)

/-- R60, R64: decoding the word, or the bytes, of any well-formed instruction gives that instruction back. -/
def Obligations.DecodeOfEncodeIsIdentity : Prop :=
  ∀ i : Instr, i.wf = true →
    decodeWord (encode i) = .ok i ∧ ∀ rest, decode (encodeBytes i ++ rest) = .ok (i, rest)

/-- R64, R65: a word that decodes to an instruction is that instruction's own word, and the instruction is well formed: no
bit of a word is dropped and no two words are one instruction. -/
def Obligations.EncodeOfDecodeIsIdentity : Prop :=
  ∀ (op : Word) (i : Instr), decodeWord op = .ok i → encode i = op ∧ i.wf = true

/-- R64 with the priority of R65: a word that a row of the opcode map selects decodes to that row's instruction with the
fields the row names. -/
def Obligations.OpcodeMapRowsDecode : Prop :=
  ∀ row ∈ opcodeMap, ∀ op : Word, OpcodeRow.selects row op → decodeWord op = .ok (row.read op)

/-- R66: the words no instruction is read from are exactly those of the table of R66, and each executes as the reported no-op
`UNKNOWN_OPCODE` with `PC` and the word. -/
def Obligations.UnrecognisedWordsAreReportedNops : Prop :=
  (∀ op : Word, (∀ i, decodeWord op ≠ .ok i) ↔ unrecognised op) ∧
  (∀ s : State, s.mode = .running → inFetchWindow s.pc → unrecognised s.fetchOp →
    step s = .next (nopState .unknownOpcode s.fetchOp s))

/-! ## Control transfer -/

/-- R88: `SYS nnn` always reports `UNKNOWN_OPCODE` and advances. -/
def Obligations.SysIsReportedNop : Prop :=
  ∀ (nnn : Addr) (s : State),
    (nnn ≠ 0x0E0 → nnn ≠ 0x0EE → decodeWord (formatNNN 0x0 nnn) = .ok (.sys nnn)) ∧
    exec (.sys nnn) s = .next (nopState .unknownOpcode (formatNNN 0x0 nnn) s)

/-- R90, R96: `JP nnn` and `JP V0, nnn`; the offset sum is exact. -/
def Obligations.JumpsSetPc : Prop :=
  ∀ (nnn : Addr) (s : State),
    (decodeWord (formatNNN 0x1 nnn) = .ok (.jp nnn) ∧
      ∃ t, exec (.jp nnn) s = .next t ∧ t.pc.toNat = nnn.toNat ∧ Keeps {} s t) ∧
    (decodeWord (formatNNN 0xB nnn) = .ok (.jpV0 nnn) ∧
      ∃ t, exec (.jpV0 nnn) s = .next t ∧ t.pc.toNat = nnn.toNat + (s.reg 0).toNat ∧ Keeps {} s t)

/-- R91: `CALL nnn` pushes its own address and jumps; on a full stack it is the reported no-op `STACK_OVERFLOW`. -/
def Obligations.CallPushesItsOwnAddress : Prop :=
  ∀ (nnn : Addr) (s : State),
    decodeWord (formatNNN 0x2 nnn) = .ok (.call nnn) ∧
    (s.sp.val < 16 → ∃ t, exec (.call nnn) s = .next t ∧
      (∀ n : Fin 16, n.val = s.sp.val → t.stk[n] = s.pc) ∧ t.sp.val = s.sp.val + 1 ∧ t.pc.toNat = nnn.toNat ∧
      Keeps { sp := true, entries := [s.sp.val] } s t) ∧
    (s.sp.val = 16 → exec (.call nnn) s = .next (nopState .stackOverflow (formatNNN 0x2 nnn) s))

/-- R89: `RET` pops an entry and ends with `PC` two above it; on an empty stack it is the reported no-op
`STACK_UNDERFLOW`. -/
def Obligations.RetPopsAndAdvances : Prop :=
  ∀ s : State,
    decodeWord 0x00EE = .ok .ret ∧
    (∀ n : Fin 16, s.sp.val = n.val + 1 →
      ∃ t, exec .ret s = .next t ∧ t.sp.val = n.val ∧ t.pc = s.stk[n] + 2 ∧ Keeps { sp := true } s t) ∧
    (s.sp.val = 0 → exec .ret s = .next (nopState .stackUnderflow 0x00EE s))

/-- R89, R91, 90_conflicts.md C1: a `RET` that finds the stack a `CALL` at `P` left resumes at `P + 2` with the depth from
before the `CALL`. -/
def Obligations.RetResumesAfterCall : Prop :=
  ∀ (nnn : Addr) (s t u : State),
    s.sp.val < 16 → exec (.call nnn) s = .next t → u.sp = t.sp → u.stk = t.stk →
    ∃ w, exec .ret u = .next w ∧ w.pc = s.pc + 2 ∧ w.sp = s.sp ∧ Keeps { sp := true } u w

/-- R92 to R95: the four register skips. -/
def Obligations.RegisterSkips : Prop :=
  ∀ (x y : RegIx) (kk : Byte) (s : State),
    (decodeWord (formatXKK 0x3 x kk) = .ok (.seVxKk x kk) ∧
      ∃ t, exec (.seVxKk x kk) s = .next t ∧ t.pc = (if s.reg x = kk then s.pc + 4 else s.pc + 2) ∧ Keeps {} s t) ∧
    (decodeWord (formatXKK 0x4 x kk) = .ok (.sneVxKk x kk) ∧
      ∃ t, exec (.sneVxKk x kk) s = .next t ∧ t.pc = (if s.reg x ≠ kk then s.pc + 4 else s.pc + 2) ∧ Keeps {} s t) ∧
    (decodeWord (formatXYN 0x5 x y 0x0) = .ok (.seVxVy x y) ∧
      ∃ t, exec (.seVxVy x y) s = .next t ∧ t.pc = (if s.reg x = s.reg y then s.pc + 4 else s.pc + 2) ∧
        Keeps {} s t) ∧
    (decodeWord (formatXYN 0x9 x y 0x0) = .ok (.sneVxVy x y) ∧
      ∃ t, exec (.sneVxVy x y) s = .next t ∧ t.pc = (if s.reg x ≠ s.reg y then s.pc + 4 else s.pc + 2) ∧
        Keeps {} s t)

/-- R86: the final `PC` of every instruction whose `exec` answers a next state is the one of the table of R86. -/
def Obligations.ProgramCounterFollowsAdvanceTable : Prop :=
  ∀ (i : Instr) (s t : State), exec i s = .next t → t.pc = pcAfter i s

/-! ## Registers, arithmetic, logic -/

/-- R100, R101: `LD Vx, kk` and `ADD Vx, kk`; `VF` changes only as the destination. -/
def Obligations.ImmediateLoadAndAdd : Prop :=
  ∀ (x : RegIx) (kk : Byte) (s : State),
    (decodeWord (formatXKK 0x6 x kk) = .ok (.ldVxKk x kk) ∧
      ∃ t, exec (.ldVxKk x kk) s = .next t ∧ t.reg x = kk ∧ t.pc = s.pc + 2 ∧ Keeps { regs := [x] } s t) ∧
    (decodeWord (formatXKK 0x7 x kk) = .ok (.addVxKk x kk) ∧
      ∃ t, exec (.addVxKk x kk) s = .next t ∧ (t.reg x).toNat = ((s.reg x).toNat + kk.toNat) % 256 ∧
        t.pc = s.pc + 2 ∧ Keeps { regs := [x] } s t)

/-- R102 to R105: copy, OR, AND, XOR; no flag. -/
def Obligations.CopyAndLogic : Prop :=
  ∀ (x y : RegIx) (s : State),
    (decodeWord (formatXYN 0x8 x y 0x0) = .ok (.ldVxVy x y) ∧
      ∃ t, exec (.ldVxVy x y) s = .next t ∧ t.reg x = s.reg y ∧ t.pc = s.pc + 2 ∧ Keeps { regs := [x] } s t) ∧
    (decodeWord (formatXYN 0x8 x y 0x1) = .ok (.orVxVy x y) ∧
      ∃ t, exec (.orVxVy x y) s = .next t ∧
        (∀ b, (t.reg x).getLsbD b = ((s.reg x).getLsbD b || (s.reg y).getLsbD b)) ∧
        t.pc = s.pc + 2 ∧ Keeps { regs := [x] } s t) ∧
    (decodeWord (formatXYN 0x8 x y 0x2) = .ok (.andVxVy x y) ∧
      ∃ t, exec (.andVxVy x y) s = .next t ∧
        (∀ b, (t.reg x).getLsbD b = ((s.reg x).getLsbD b && (s.reg y).getLsbD b)) ∧
        t.pc = s.pc + 2 ∧ Keeps { regs := [x] } s t) ∧
    (decodeWord (formatXYN 0x8 x y 0x3) = .ok (.xorVxVy x y) ∧
      ∃ t, exec (.xorVxVy x y) s = .next t ∧
        (∀ b, (t.reg x).getLsbD b = ((s.reg x).getLsbD b ^^ (s.reg y).getLsbD b)) ∧
        t.pc = s.pc + 2 ∧ Keeps { regs := [x] } s t)

/-- R106, R113: `ADD Vx, Vy`; the flag is what remains in `VF`, also when `x = 15`. -/
def Obligations.AddWritesCarry : Prop :=
  ∀ (x y : RegIx) (s : State),
    decodeWord (formatXYN 0x8 x y 0x4) = .ok (.addVxVy x y) ∧
    ∃ t, exec (.addVxVy x y) s = .next t ∧
      (x ≠ 0xF → (t.reg x).toNat = ((s.reg x).toNat + (s.reg y).toNat) % 256) ∧
      t.reg 0xF = (if (s.reg x).toNat + (s.reg y).toNat > 255 then 1 else 0) ∧
      t.pc = s.pc + 2 ∧ Keeps { regs := [x, 0xF] } s t

/-- R107, R109, R113: `SUB` and `SUBN`. With equal operands `VF` is the open parameter `SUB_EQ_FLAG` (log entry 3): the
statement holds for either value of it. -/
def Obligations.SubtractionsWriteGreaterFlag : Prop :=
  ∀ (x y : RegIx) (s : State),
    (decodeWord (formatXYN 0x8 x y 0x5) = .ok (.subVxVy x y) ∧
      ∃ t, exec (.subVxVy x y) s = .next t ∧
        (x ≠ 0xF → ((t.reg x).toNat : Int) = ((s.reg x).toNat - (s.reg y).toNat : Int) % 256) ∧
        ((s.reg x).toNat > (s.reg y).toNat → t.reg 0xF = 1) ∧
        ((s.reg x).toNat < (s.reg y).toNat → t.reg 0xF = 0) ∧
        (s.reg x = s.reg y → t.reg 0xF = if Config.subEqFlag then 1 else 0) ∧
        t.pc = s.pc + 2 ∧ Keeps { regs := [x, 0xF] } s t) ∧
    (decodeWord (formatXYN 0x8 x y 0x7) = .ok (.subnVxVy x y) ∧
      ∃ t, exec (.subnVxVy x y) s = .next t ∧
        (x ≠ 0xF → ((t.reg x).toNat : Int) = ((s.reg y).toNat - (s.reg x).toNat : Int) % 256) ∧
        ((s.reg y).toNat > (s.reg x).toNat → t.reg 0xF = 1) ∧
        ((s.reg y).toNat < (s.reg x).toNat → t.reg 0xF = 0) ∧
        (s.reg x = s.reg y → t.reg 0xF = if Config.subEqFlag then 1 else 0) ∧
        t.pc = s.pc + 2 ∧ Keeps { regs := [x, 0xF] } s t)

/-- R108, R110, R113: `SHR Vx` and `SHL Vx` for every value of the ignored field `y`. -/
def Obligations.ShiftsWriteBitOut : Prop :=
  ∀ (x y : RegIx) (s : State),
    (decodeWord (formatXYN 0x8 x y 0x6) = .ok (.shrVx x y) ∧
      ∃ t, exec (.shrVx x y) s = .next t ∧
        (x ≠ 0xF → (t.reg x).toNat = (s.reg x).toNat / 2) ∧ (t.reg 0xF).toNat = (s.reg x).toNat % 2 ∧
        t.pc = s.pc + 2 ∧ Keeps { regs := [x, 0xF] } s t) ∧
    (decodeWord (formatXYN 0x8 x y 0xE) = .ok (.shlVx x y) ∧
      ∃ t, exec (.shlVx x y) s = .next t ∧
        (x ≠ 0xF → (t.reg x).toNat = 2 * (s.reg x).toNat % 256) ∧ (t.reg 0xF).toNat = (s.reg x).toNat / 128 ∧
        t.pc = s.pc + 2 ∧ Keeps { regs := [x, 0xF] } s t)

/-- R111: `RND Vx, kk` stores a fresh free byte masked by `kk`; whatever the byte is, bits outside `kk` are 0. The order of
the draws is the model's (log entry 1). -/
def Obligations.RandomByteIsMasked : Prop :=
  ∀ (x : RegIx) (kk : Byte) (s : State),
    decodeWord (formatXKK 0xC x kk) = .ok (.rnd x kk) ∧
    ∃ t, exec (.rnd x kk) s = .next t ∧ t.reg x = Config.randByte s.draws &&& kk ∧ t.draws = s.draws + 1 ∧
      (∀ b, kk.getLsbD b = false → (t.reg x).getLsbD b = false) ∧
      t.pc = s.pc + 2 ∧ Keeps { regs := [x], draws := true } s t

/-- R11: after an executed flag-writing instruction `VF` is 0 or 1 (a `DRW` out of range does not execute: it leaves `VF`);
every other instruction leaves `VF` unless it is a destination of its own. -/
def Obligations.OnlyFlagWritersTouchVf : Prop :=
  ∀ (i : Instr) (s t : State), exec i s = .next t →
    (writesFlag i = true →
      t.reg 0xF = 0 ∨ t.reg 0xF = 1 ∨
        (t = nopState .dataAddrRange (encode i) s ∧ ∃ x y n, i = .drw x y n ∧ ¬ spriteInRange s n)) ∧
    (writesFlag i = false → 0xF ∉ destinations i → t.reg 0xF = s.reg 0xF)

/-- R27: every instruction changes only what the table of R27 lists for it, beside `PC`. -/
def Obligations.InstructionsStayInFootprint : Prop :=
  ∀ (i : Instr) (s t : State), exec i s = .next t → Keeps (footprintOf i s) s t

/-! ## Index register and memory -/

/-- R120, R121, R122: the three instructions that write `I`. -/
def Obligations.IndexRegisterWrites : Prop :=
  ∀ (nnn : Addr) (x : RegIx) (s : State),
    (decodeWord (formatNNN 0xA nnn) = .ok (.ldI nnn) ∧
      ∃ t, exec (.ldI nnn) s = .next t ∧ t.i.toNat = nnn.toNat ∧ t.pc = s.pc + 2 ∧ Keeps { index := true } s t) ∧
    (decodeWord (formatXKK 0xF x 0x1E) = .ok (.addIVx x) ∧
      ∃ t, exec (.addIVx x) s = .next t ∧ t.i.toNat = (s.i.toNat + (s.reg x).toNat) % 65536 ∧
        t.pc = s.pc + 2 ∧ Keeps { index := true } s t) ∧
    (decodeWord (formatXKK 0xF x 0x29) = .ok (.ldFVx x) ∧
      ∃ t, exec (.ldFVx x) s = .next t ∧ t.i.toNat = 5 * ((s.reg x).toNat % 16) ∧
        t.pc = s.pc + 2 ∧ Keeps { index := true } s t)

/-- R123: `LD B, Vx` stores the three decimal digits at `I`, `I+1`, `I+2`; out of range it is the reported no-op. -/
def Obligations.BcdStoresThreeDigits : Prop :=
  ∀ (x : RegIx) (s : State),
    decodeWord (formatXKK 0xF x 0x33) = .ok (.ldBVx x) ∧
    (s.i.toNat + 2 ≤ 0xFFF → ∃ t, exec (.ldBVx x) s = .next t ∧
      (Memory.read t.mem s.i.toNat).toNat = (s.reg x).toNat / 100 ∧
      (Memory.read t.mem (s.i.toNat + 1)).toNat = (s.reg x).toNat / 10 % 10 ∧
      (Memory.read t.mem (s.i.toNat + 2)).toNat = (s.reg x).toNat % 10 ∧
      t.pc = s.pc + 2 ∧ Keeps { cells := dataCells s 3 } s t) ∧
    (0xFFF < s.i.toNat + 2 →
      exec (.ldBVx x) s = .next (nopState .dataAddrRange (formatXKK 0xF x 0x33) s))

/-- R124: `LD [I], Vx` stores `V0..Vx` at `I..I+x`; out of range it is the reported no-op and stores nothing. -/
def Obligations.BlockDumpStoresRegisters : Prop :=
  ∀ (x : RegIx) (s : State),
    decodeWord (formatXKK 0xF x 0x55) = .ok (.ldMemVx x) ∧
    (s.i.toNat + x.toNat ≤ 0xFFF → ∃ t, exec (.ldMemVx x) s = .next t ∧
      (∀ k : RegIx, k.toNat ≤ x.toNat → Memory.read t.mem (s.i.toNat + k.toNat) = s.reg k) ∧
      t.pc = s.pc + 2 ∧ Keeps { cells := dataCells s (x.toNat + 1) } s t) ∧
    (0xFFF < s.i.toNat + x.toNat →
      exec (.ldMemVx x) s = .next (nopState .dataAddrRange (formatXKK 0xF x 0x55) s))

/-- R125: `LD Vx, [I]` loads `V0..Vx` from `I..I+x`; out of range it is the reported no-op and loads nothing. -/
def Obligations.BlockLoadReadsRegisters : Prop :=
  ∀ (x : RegIx) (s : State),
    decodeWord (formatXKK 0xF x 0x65) = .ok (.ldVxMem x) ∧
    (s.i.toNat + x.toNat ≤ 0xFFF → ∃ t, exec (.ldVxMem x) s = .next t ∧
      (∀ k : RegIx, k.toNat ≤ x.toNat → t.reg k = Memory.read s.mem (s.i.toNat + k.toNat)) ∧
      t.pc = s.pc + 2 ∧ Keeps { regs := blockRegs x } s t) ∧
    (0xFFF < s.i.toNat + x.toNat →
      exec (.ldVxMem x) s = .next (nopState .dataAddrRange (formatXKK 0xF x 0x65) s))

/-- R124, R125, R54: a block load that finds the memory and the `I` a block dump left gives the dumped registers back. -/
def Obligations.BlockLoadUndoesBlockDump : Prop :=
  ∀ (x : RegIx) (s t u : State),
    s.i.toNat + x.toNat ≤ 0xFFF → exec (.ldMemVx x) s = .next t → u.mem = t.mem → u.i = t.i →
    ∃ w, exec (.ldVxMem x) u = .next w ∧ ∀ k : RegIx, k.toNat ≤ x.toNat → w.reg k = s.reg k

/-- R52: a store is seen by the next fetch: after a block dump of two or more registers at the address `PC` then holds, the
next fetched word is `{V0, V1}`. -/
def Obligations.StoredWordIsFetchedNext : Prop :=
  ∀ (x : RegIx) (s : State),
    1 ≤ x.toNat → s.i.toNat + x.toNat ≤ 0xFFF → s.i = s.pc + 2 →
    ∃ t, exec (.ldMemVx x) s = .next t ∧ t.fetchOp = wordOfBytes (s.reg 0) (s.reg 1)

/-- R54: a read returns the byte last written to that address, every other address is kept, and the write keeps the canonical
form of memory (log entry 9). -/
def Obligations.MemoryReadsLastWrite : Prop :=
  ∀ (m : Memory) (a : Nat) (b : Byte), a ≤ 0xFFF →
    Memory.read (Memory.write m a b) a = b ∧
    (∀ c, c ≠ a → Memory.read (Memory.write m a b) c = Memory.read m c) ∧
    (Memory.wf m = true → Memory.wf (Memory.write m a b) = true)

/-! ## Display -/

/-- R130: `CLS`. -/
def Obligations.ClearTurnsEveryPixelOff : Prop :=
  ∀ s : State,
    decodeWord 0x00E0 = .ok .cls ∧
    ∃ t, exec .cls s = .next t ∧ (∀ r c, FrameBuffer.pixel t.fb r c = false) ∧ t.dirty = true ∧
      t.pc = s.pc + 2 ∧ Keeps { fb := true, dirty := true } s t

/-- R131, R132: `DRW` in closed form: exactly the covered pixels are inverted, `VF` tells whether one of them was on, `DIRTY`
is set; out of range it is the reported no-op. -/
def Obligations.DrawInvertsCoveredPixels : Prop :=
  ∀ (x y : RegIx) (n : Nibble) (s : State),
    decodeWord (formatXYN 0xD x y n) = .ok (.drw x y n) ∧
    (spriteInRange s n → ∃ t, exec (.drw x y n) s = .next t ∧
      (∀ r c, Covers s x y n r c → FrameBuffer.pixel t.fb r c = !FrameBuffer.pixel s.fb r c) ∧
      (∀ r c, ¬ Covers s x y n r c → FrameBuffer.pixel t.fb r c = FrameBuffer.pixel s.fb r c) ∧
      ((∃ r c, Covers s x y n r c ∧ FrameBuffer.pixel s.fb r c = true) → t.reg 0xF = 1) ∧
      ((¬ ∃ r c, Covers s x y n r c ∧ FrameBuffer.pixel s.fb r c = true) → t.reg 0xF = 0) ∧
      t.dirty = true ∧ t.pc = s.pc + 2 ∧ Keeps { regs := [0xF], fb := true, dirty := true } s t) ∧
    (¬ spriteInRange s n →
      exec (.drw x y n) s = .next (nopState .dataAddrRange (formatXYN 0xD x y n) s))

/-- R131: the same sprite drawn twice at the same place restores the framebuffer; the second draw's `VF` tells whether a
covered pixel was off before the first. That it is 0 when every covered pixel was on follows the pseudocode of R131 against
its remark on the second draw: the model's choice, log entry 13. -/
def Obligations.DrawTwiceRestoresFramebuffer : Prop :=
  ∀ (x y : RegIx) (n : Nibble) (s t : State),
    x ≠ 0xF → y ≠ 0xF → spriteInRange s n → exec (.drw x y n) s = .next t →
    ∃ w, exec (.drw x y n) t = .next w ∧
      (∀ r c, FrameBuffer.pixel w.fb r c = FrameBuffer.pixel s.fb r c) ∧
      ((∃ r c, Covers s x y n r c ∧ FrameBuffer.pixel s.fb r c = false) → w.reg 0xF = 1) ∧
      ((¬ ∃ r c, Covers s x y n r c ∧ FrameBuffer.pixel s.fb r c = false) → w.reg 0xF = 0)

/-- R131, the corner case read for every framebuffer: "the second draw reports VF = 1 if the sprite has any 1 bit". Expected to
fail: where the first draw turned every covered pixel off, the second turns them on again and collides with nothing
(log entry 13). -/
def Obligations.SecondDrawAlwaysCollides : Prop :=
  ∀ (x y : RegIx) (n : Nibble) (s t w : State),
    x ≠ 0xF → y ≠ 0xF → spriteInRange s n → exec (.drw x y n) s = .next t → exec (.drw x y n) t = .next w →
    (∃ r c, Covers s x y n r c) → w.reg 0xF = 1

/-! ## Keypad and timers -/

/-- R140, R141: the key skips test key `V[x] mod 16`. -/
def Obligations.KeySkips : Prop :=
  ∀ (x : RegIx) (s : State) (k : Nibble), k.toNat = (s.reg x).toNat % 16 →
    (decodeWord (formatXKK 0xE x 0x9E) = .ok (.skp x) ∧
      ∃ t, exec (.skp x) s = .next t ∧
        t.pc = (if KeyBits.get s.keys k = true then s.pc + 4 else s.pc + 2) ∧ Keeps {} s t) ∧
    (decodeWord (formatXKK 0xE x 0xA1) = .ok (.sknp x) ∧
      ∃ t, exec (.sknp x) s = .next t ∧
        t.pc = (if KeyBits.get s.keys k = false then s.pc + 4 else s.pc + 2) ∧ Keeps {} s t)

/-- R142: `LD Vx, K` enters the wait, captures the lowest key pressed since, or changes nothing. -/
def Obligations.KeyWaitEntersCapturesOrIdles : Prop :=
  ∀ (x : RegIx) (s : State),
    decodeWord (formatXKK 0xF x 0x0A) = .ok (.ldVxK x) ∧
    (s.mode = .running → ∃ t, exec (.ldVxK x) s = .next t ∧ t.mode = .waitingForKeypress ∧
      (∀ k, KeyBits.get t.keyEvt k = false) ∧ t.pc = s.pc ∧ Keeps { mode := true, keyEvt := true } s t) ∧
    (∀ k, s.mode = .waitingForKeypress → KeyBits.get s.keyEvt k = true →
      (∀ j : Nibble, j.toNat < k.toNat → KeyBits.get s.keyEvt j = false) →
      ∃ t, exec (.ldVxK x) s = .next t ∧ (t.reg x).toNat = k.toNat ∧ t.mode = .running ∧ t.pc = s.pc + 2 ∧
        Keeps { regs := [x], mode := true } s t) ∧
    (s.mode = .waitingForKeypress → (∀ k, KeyBits.get s.keyEvt k = false) → exec (.ldVxK x) s = .next s)

/-- R143, R144, R145: the three timer instructions. -/
def Obligations.TimerInstructions : Prop :=
  ∀ (x : RegIx) (s : State),
    (decodeWord (formatXKK 0xF x 0x07) = .ok (.ldVxDt x) ∧
      ∃ t, exec (.ldVxDt x) s = .next t ∧ t.reg x = s.dt ∧ t.pc = s.pc + 2 ∧ Keeps { regs := [x] } s t) ∧
    (decodeWord (formatXKK 0xF x 0x15) = .ok (.ldDtVx x) ∧
      ∃ t, exec (.ldDtVx x) s = .next t ∧ t.dt = s.reg x ∧ t.pc = s.pc + 2 ∧ Keeps { dt := true } s t) ∧
    (decodeWord (formatXKK 0xF x 0x18) = .ok (.ldStVx x) ∧
      ∃ t, exec (.ldStVx x) s = .next t ∧ t.st = s.reg x ∧ t.pc = s.pc + 2 ∧ Keeps { st := true } s t)

/-! ## Clock and Update -/

/-- R163: one tick takes one from each timer, floored at 0, and nothing else. -/
def Obligations.TimerTickFloorsAtZero : Prop :=
  ∀ s : State,
    (0 < s.dt.toNat → s.timerTick.dt.toNat + 1 = s.dt.toNat) ∧ (s.dt = 0 → s.timerTick.dt = 0) ∧
    (0 < s.st.toNat → s.timerTick.st.toNat + 1 = s.st.toNat) ∧ (s.st = 0 → s.timerTick.st = 0) ∧
    { s.timerTick with dt := s.dt, st := s.st } = s

/-- R163, R164: `n` iterations of the timer loop take `n` from each timer, floored at 0, and `n` periods from the debt. -/
def Obligations.TimerLoopCountsDown : Prop :=
  ∀ (p : Params) (s : State) (n : Nat), n * p.timebaseHz ≤ s.accTmr →
    (s.timerLoop p n).dt.toNat = s.dt.toNat - n ∧ (s.timerLoop p n).st.toNat = s.st.toNat - n ∧
    (s.timerLoop p n).accTmr + n * p.timebaseHz = s.accTmr ∧
    { s.timerLoop p n with dt := s.dt, st := s.st, accTmr := s.accTmr } = s

/-- R164, R167: outside Halted, `Update` is the pair of loops the spec prints: all due ticks, then all due steps, ending at once
when a step is fatal. That it ends the load permission is the model's own (log entry 6). -/
def Obligations.UpdateIsTheSpecsTwoLoops : Prop :=
  ∀ (p : Params) (tNow : Nat) (s t : State) (r : UpdateResult),
    s.mode ≠ .halted → s.tLast ≤ tNow →
    (s.update p tNow = .next (t, r) ↔ ∃ m, TimerWhile p (afterElapsed p tNow s) m ∧ CpuWhile p m 0 t r)

/-- R165: a call with zero elapsed delta executes nothing and returns 0 (the load permission, the model's own field, ends: log entry 6). -/
def Obligations.ZeroDeltaUpdateIsNop : Prop :=
  ∀ (p : Params) (s : State),
    s.mode ≠ .halted → s.accTmr < p.timebaseHz → s.accCpu < p.timebaseHz →
    s.update p s.tLast = .next ({ s with loadable := false }, .steps 0)

/-- R166, R164: with no fatal condition the number of steps is the number of due periods, uncapped, and both debts end below
one period. -/
def Obligations.UpdateCatchesUp : Prop :=
  ∀ (p : Params) (tNow n : Nat) (s t : State), s.update p tNow = .next (t, .steps n) →
    n = stepsDue p tNow s ∧ t.tLast = tNow ∧
    t.accCpu = (s.accCpu + (tNow - s.tLast) * min p.cpuHzCfg 1000) % p.timebaseHz ∧
    t.accTmr = (s.accTmr + (tNow - s.tLast) * 60) % p.timebaseHz

/-- R169: two calls and one call to the same instant execute the same number of steps and of ticks and leave the same debts. The
ticks of a call are counted by `ticksDue`; that a call applies just these is `UpdateIsTheSpecsTwoLoops` with
`TimerLoopCountsDown`. -/
def Obligations.UpdateIsBatchingInvariant : Prop :=
  ∀ (p : Params) (t1 t2 n1 n2 n : Nat) (s s1 s2 s' : State),
    s.update p t1 = .next (s1, .steps n1) → s1.update p t2 = .next (s2, .steps n2) →
    s.update p t2 = .next (s', .steps n) →
    n = n1 + n2 ∧ ticksDue p t2 s = ticksDue p t1 s + ticksDue p t2 s1 ∧
    s'.accCpu = s2.accCpu ∧ s'.accTmr = s2.accTmr ∧ s'.tLast = s2.tLast

/-- R167, R155: in Halted `Update` changes nothing and returns the latch; a call that becomes fatal ends in Halted with the
latch naming `PC`, which is outside the window, and returns that latch. -/
def Obligations.UpdateReturnsTheFault : Prop :=
  ∀ (p : Params) (tNow : Nat) (s : State),
    (s.mode = .halted → s.update p tNow = .next (s, .fatal s.fault)) ∧
    (∀ t l, s.mode ≠ .halted → s.update p tNow = .next (t, .fatal l) →
      t.mode = .halted ∧ l = t.fault ∧ t.fault = some ⟨.pcRange, t.pc⟩ ∧ ¬ inFetchWindow t.pc ∧ t.tLast = tNow ∧
      t.accTmr < p.timebaseHz)

/-! ## Host ports -/

/-- R170, R171: `PressKey` sets `KEY` and `KEYEVT` of key `k mod 16`, `UnpressKey` clears `KEY` of it; nothing else changes. -/
def Obligations.KeyPortSetsMaskedKey : Prop :=
  ∀ (k : Int) (s : State) (j : Nibble),
    KeyBits.get (s.pressKey k).keys j = (if (j.toNat : Int) = k % 16 then true else KeyBits.get s.keys j) ∧
    KeyBits.get (s.pressKey k).keyEvt j = (if (j.toNat : Int) = k % 16 then true else KeyBits.get s.keyEvt j) ∧
    { s.pressKey k with keys := s.keys, keyEvt := s.keyEvt } = s ∧
    KeyBits.get (s.unpressKey k).keys j = (if (j.toNat : Int) = k % 16 then false else KeyBits.get s.keys j) ∧
    { s.unpressKey k with keys := s.keys } = s

/-- R173, R174: a dirty read packs every pixel at its place and clears the flag, a clean read returns the cache and changes
nothing, and a second read returns the same bytes. -/
def Obligations.DisplayFrameIsAPureCache : Prop :=
  ∀ (p : Params) (s : State),
    (s.dirty = true →
      (s.readDisplayFrame p).2[0] = p.displayTag ∧
      (∀ (r : Fin 32) (g b : Fin 8),
        ((s.readDisplayFrame p).2[1 + 8 * r.val + g.val]'(by omega)).getLsbD (7 - b.val) =
          FrameBuffer.pixel s.fb r ⟨8 * g.val + b.val, by omega⟩) ∧
      (s.readDisplayFrame p).1 = { s with packed := (s.readDisplayFrame p).2, dirty := false }) ∧
    (s.dirty = false → s.readDisplayFrame p = (s, s.packed)) ∧
    (s.readDisplayFrame p).1.readDisplayFrame p = s.readDisplayFrame p

/-- R130, R173: a frame read right after `CLS` is the tag and 256 zero bytes, whatever was shown before. -/
def Obligations.FrameAfterClearIsZero : Prop :=
  ∀ (p : Params) (s : State), ∃ t, exec .cls s = .next t ∧
    (t.readDisplayFrame p).2[0] = p.displayTag ∧
    ∀ n : Fin 257, 1 ≤ n.val → (t.readDisplayFrame p).2[n] = 0

/-- R175: the debug frame is the tag, distinct from the display tag, and the 4096 bytes in address order; it has no side
effect. -/
def Obligations.DebugFrameIsRawMemory : Prop :=
  ∀ (p : Params) (s : State),
    (s.readDebugFrame p).length = 4097 ∧ (s.readDebugFrame p).head? = some p.debugTag ∧ p.debugTag ≠ p.displayTag ∧
    (∀ a, a < 4096 → (s.readDebugFrame p)[1 + a]? = some (Memory.read s.mem a)) ∧
    hostOp p .readDebugFrame s = .next (s, .frame (s.readDebugFrame p))

/-- R192, R193: a legal `Load` of at most 0xE00 bytes puts them at 0x200 and up and changes nothing else; a longer one writes
nothing and is reported. The load permission is the model's own (log entry 6) and is left aside here. -/
def Obligations.LoadCopiesOrRejects : Prop :=
  ∀ (bytes : List Byte) (s : State), s.loadable = true → s.mode = .running →
    (bytes.length ≤ 0xE00 → ∃ t, s.load bytes = .next (t, .ok) ∧
      (∀ k, k < bytes.length → some (Memory.read t.mem (0x200 + k)) = bytes[k]?) ∧
      (∀ a, a < 0x200 ∨ 0x200 + bytes.length ≤ a → Memory.read t.mem a = Memory.read s.mem a) ∧
      { t with mem := s.mem, loadable := s.loadable } = s) ∧
    (0xE00 < bytes.length → ∃ t, s.load bytes = .next (t, .tooLong) ∧
      { t with loadable := s.loadable } = { s with reports := s.reports ++ [.loadTooLong bytes.length] })

/-- R194 through the model's load permission (log entry 6): after a Load, and after an Update, no Load is accepted. -/
def Obligations.LoadIsRefusedAfterLoadOrUpdate : Prop :=
  ∀ (p : Params) (tNow : Nat) (bytes bytes' : List Byte) (s t : State),
    (∀ r, s.load bytes = .next (t, r) → t.load bytes' = .refused .loadOutOfLifecycle) ∧
    (∀ r, s.update p tNow = .next (t, r) → t.load bytes' = .refused .loadOutOfLifecycle)

/-- R26, R190, R191: what Reset leaves, from any state and with any table `FONT`, for every piece of state whose reset value the
spec gives; memory is the table below 0x050 and zeros above (R6, R16, R43). The bytes of R43 stand there when `FONT` is the
default, and `State.reset` is the Reset with that default (log entry 2). -/
def Obligations.ResetGivesTheResetTable : Prop :=
  ∀ (p : Params) (s : State),
    (∀ k, (s.hostReset p).reg k = 0) ∧ (s.hostReset p).i = 0 ∧ (s.hostReset p).pc = 0x200 ∧ (s.hostReset p).sp = 0 ∧
    (∀ n : Fin 16, (s.hostReset p).stk[n] = 0) ∧ (s.hostReset p).dt = 0 ∧ (s.hostReset p).st = 0 ∧
    (∀ (a : Nat) (h : a < 80), Memory.read (s.hostReset p).mem a = p.font[a]) ∧
    (p.font = defaultFont →
      (List.range 16).map (fun d => (List.range 5).map (fun r => Memory.read (s.hostReset p).mem (5 * d + r))) =
        [[0xF0, 0x90, 0x90, 0x90, 0xF0], [0x20, 0x60, 0x20, 0x20, 0x70], [0xF0, 0x10, 0xF0, 0x80, 0xF0],
         [0xF0, 0x10, 0xF0, 0x10, 0xF0], [0x90, 0x90, 0xF0, 0x10, 0x10], [0xF0, 0x80, 0xF0, 0x10, 0xF0],
         [0xF0, 0x80, 0xF0, 0x90, 0xF0], [0xF0, 0x10, 0x20, 0x40, 0x40], [0xF0, 0x90, 0xF0, 0x90, 0xF0],
         [0xF0, 0x90, 0xF0, 0x10, 0xF0], [0xF0, 0x90, 0xF0, 0x90, 0x90], [0xE0, 0x90, 0xE0, 0x90, 0xE0],
         [0xF0, 0x80, 0x80, 0x80, 0xF0], [0xE0, 0x90, 0x90, 0x90, 0xE0], [0xF0, 0x80, 0xF0, 0x80, 0xF0],
         [0xF0, 0x80, 0xF0, 0x80, 0x80]]) ∧
    (∀ a, 0x050 ≤ a → Memory.read (s.hostReset p).mem a = 0) ∧
    (∀ r c, FrameBuffer.pixel (s.hostReset p).fb r c = false) ∧ (s.hostReset p).dirty = true ∧
    (∀ k, KeyBits.get (s.hostReset p).keys k = false ∧ KeyBits.get (s.hostReset p).keyEvt k = false) ∧
    (s.hostReset p).mode = .running ∧ (s.hostReset p).fault = none ∧
    (s.hostReset p).tLast = 0 ∧ (s.hostReset p).accCpu = 0 ∧ (s.hostReset p).accTmr = 0 ∧
    State.resetWith defaultFont = State.reset

/-- R173: a display-frame read changes nothing a program can see: the next step answers the same but for `DIRTY` and
`PACKED`. -/
def Obligations.DisplayReadIsInvisibleToPrograms : Prop :=
  ∀ (p : Params) (s : State),
    (∀ t, step s = .next t → ∃ u, step (s.readDisplayFrame p).1 = .next u ∧
      { u with dirty := t.dirty, packed := t.packed } = t) ∧
    (∀ f, step s = .fault f → step (s.readDisplayFrame p).1 = .fault f) ∧
    (∀ r, step s = .refused r → step (s.readDisplayFrame p).1 = .refused r)

/-! ## Invariants -/

/-- The invariant holds right after Reset, whatever table `FONT` is (R6, log entry 2). -/
def Obligations.ResetStateMeetsTheInvariant : Prop :=
  Inv State.reset ∧ ∀ font : FontTable, Inv (State.resetWith font)

/-- Every step keeps the invariant: canonical memory, the latch, the bound of `PC` (R13), the stack of valid addresses (R89),
the waiting word (R85), the freshness of the packed frame (R173). -/
def Obligations.StepKeepsTheInvariant : Prop :=
  ∀ s t : State, Inv s → step s = .next t → Inv t

/-- From every state that meets the invariant and is not halted a step answers a next state: the refusal of R85 is
unreachable and no instruction stops (log entry 8). -/
def Obligations.StepNeverStopsUnlessHalted : Prop :=
  ∀ s : State, Inv s → s.mode ≠ .halted → ∃ t, step s = .next t

/-- Every host operation of R177 keeps the invariant of the host's sequence of calls. -/
def Obligations.HostOperationsKeepTheInvariant : Prop :=
  ∀ (p : Params) (op : HostOp) (s t : State) (r : HostReply),
    HostInv p s → hostOp p op s = .next (t, r) → HostInv p t

/-- R168: `Update` with a time not before the last always returns, with a step count or with the fault. -/
def Obligations.UpdateAlwaysReturns : Prop :=
  ∀ (p : Params) (tNow : Nat) (s : State), HostInv p s → s.tLast ≤ tNow →
    ∃ t r, s.update p tNow = .next (t, r)
end

