-- ==== Sys2Proof/Laws/State.lean ====
section
/-! SUPPORT. One lemma per field per update of the state, true by rfl, so that no later proof unfolds a record update. -/

namespace Sys2Proof.Machine

/-! ## State.setReg -/

section
variable (s : State) (x : RegIx) (b : Byte)

@[simp] theorem State.setReg_v : (s.setReg x b).v = s.v.set x.toNat b x.isLt := rfl
@[simp] theorem State.setReg_i : (s.setReg x b).i = s.i := rfl
@[simp] theorem State.setReg_pc : (s.setReg x b).pc = s.pc := rfl
@[simp] theorem State.setReg_sp : (s.setReg x b).sp = s.sp := rfl
@[simp] theorem State.setReg_stk : (s.setReg x b).stk = s.stk := rfl
@[simp] theorem State.setReg_dt : (s.setReg x b).dt = s.dt := rfl
@[simp] theorem State.setReg_st : (s.setReg x b).st = s.st := rfl
@[simp] theorem State.setReg_mem : (s.setReg x b).mem = s.mem := rfl
@[simp] theorem State.setReg_fb : (s.setReg x b).fb = s.fb := rfl
@[simp] theorem State.setReg_dirty : (s.setReg x b).dirty = s.dirty := rfl
@[simp] theorem State.setReg_packed : (s.setReg x b).packed = s.packed := rfl
@[simp] theorem State.setReg_keys : (s.setReg x b).keys = s.keys := rfl
@[simp] theorem State.setReg_keyEvt : (s.setReg x b).keyEvt = s.keyEvt := rfl
@[simp] theorem State.setReg_mode : (s.setReg x b).mode = s.mode := rfl
@[simp] theorem State.setReg_fault : (s.setReg x b).fault = s.fault := rfl
@[simp] theorem State.setReg_tLast : (s.setReg x b).tLast = s.tLast := rfl
@[simp] theorem State.setReg_accCpu : (s.setReg x b).accCpu = s.accCpu := rfl
@[simp] theorem State.setReg_accTmr : (s.setReg x b).accTmr = s.accTmr := rfl
@[simp] theorem State.setReg_reports : (s.setReg x b).reports = s.reports := rfl
@[simp] theorem State.setReg_draws : (s.setReg x b).draws = s.draws := rfl
@[simp] theorem State.setReg_loadable : (s.setReg x b).loadable = s.loadable := rfl

end

/-! ## State.advance -/

section
variable (s : State)

@[simp] theorem State.advance_v : (s.advance).v = s.v := rfl
@[simp] theorem State.advance_i : (s.advance).i = s.i := rfl
@[simp] theorem State.advance_pc : (s.advance).pc = s.pc + 2 := rfl
@[simp] theorem State.advance_sp : (s.advance).sp = s.sp := rfl
@[simp] theorem State.advance_stk : (s.advance).stk = s.stk := rfl
@[simp] theorem State.advance_dt : (s.advance).dt = s.dt := rfl
@[simp] theorem State.advance_st : (s.advance).st = s.st := rfl
@[simp] theorem State.advance_mem : (s.advance).mem = s.mem := rfl
@[simp] theorem State.advance_fb : (s.advance).fb = s.fb := rfl
@[simp] theorem State.advance_dirty : (s.advance).dirty = s.dirty := rfl
@[simp] theorem State.advance_packed : (s.advance).packed = s.packed := rfl
@[simp] theorem State.advance_keys : (s.advance).keys = s.keys := rfl
@[simp] theorem State.advance_keyEvt : (s.advance).keyEvt = s.keyEvt := rfl
@[simp] theorem State.advance_mode : (s.advance).mode = s.mode := rfl
@[simp] theorem State.advance_fault : (s.advance).fault = s.fault := rfl
@[simp] theorem State.advance_tLast : (s.advance).tLast = s.tLast := rfl
@[simp] theorem State.advance_accCpu : (s.advance).accCpu = s.accCpu := rfl
@[simp] theorem State.advance_accTmr : (s.advance).accTmr = s.accTmr := rfl
@[simp] theorem State.advance_reports : (s.advance).reports = s.reports := rfl
@[simp] theorem State.advance_draws : (s.advance).draws = s.draws := rfl
@[simp] theorem State.advance_loadable : (s.advance).loadable = s.loadable := rfl

end

/-! ## State.skipIf -/

section
variable (s : State) (c : Bool)

@[simp] theorem State.skipIf_v : (s.skipIf c).v = s.v := rfl
@[simp] theorem State.skipIf_i : (s.skipIf c).i = s.i := rfl
@[simp] theorem State.skipIf_pc : (s.skipIf c).pc = if c then s.pc + 4 else s.pc + 2 := rfl
@[simp] theorem State.skipIf_sp : (s.skipIf c).sp = s.sp := rfl
@[simp] theorem State.skipIf_stk : (s.skipIf c).stk = s.stk := rfl
@[simp] theorem State.skipIf_dt : (s.skipIf c).dt = s.dt := rfl
@[simp] theorem State.skipIf_st : (s.skipIf c).st = s.st := rfl
@[simp] theorem State.skipIf_mem : (s.skipIf c).mem = s.mem := rfl
@[simp] theorem State.skipIf_fb : (s.skipIf c).fb = s.fb := rfl
@[simp] theorem State.skipIf_dirty : (s.skipIf c).dirty = s.dirty := rfl
@[simp] theorem State.skipIf_packed : (s.skipIf c).packed = s.packed := rfl
@[simp] theorem State.skipIf_keys : (s.skipIf c).keys = s.keys := rfl
@[simp] theorem State.skipIf_keyEvt : (s.skipIf c).keyEvt = s.keyEvt := rfl
@[simp] theorem State.skipIf_mode : (s.skipIf c).mode = s.mode := rfl
@[simp] theorem State.skipIf_fault : (s.skipIf c).fault = s.fault := rfl
@[simp] theorem State.skipIf_tLast : (s.skipIf c).tLast = s.tLast := rfl
@[simp] theorem State.skipIf_accCpu : (s.skipIf c).accCpu = s.accCpu := rfl
@[simp] theorem State.skipIf_accTmr : (s.skipIf c).accTmr = s.accTmr := rfl
@[simp] theorem State.skipIf_reports : (s.skipIf c).reports = s.reports := rfl
@[simp] theorem State.skipIf_draws : (s.skipIf c).draws = s.draws := rfl
@[simp] theorem State.skipIf_loadable : (s.skipIf c).loadable = s.loadable := rfl

end

/-! ## State.jump -/

section
variable (s : State) (w : Word)

@[simp] theorem State.jump_v : (s.jump w).v = s.v := rfl
@[simp] theorem State.jump_i : (s.jump w).i = s.i := rfl
@[simp] theorem State.jump_pc : (s.jump w).pc = w := rfl
@[simp] theorem State.jump_sp : (s.jump w).sp = s.sp := rfl
@[simp] theorem State.jump_stk : (s.jump w).stk = s.stk := rfl
@[simp] theorem State.jump_dt : (s.jump w).dt = s.dt := rfl
@[simp] theorem State.jump_st : (s.jump w).st = s.st := rfl
@[simp] theorem State.jump_mem : (s.jump w).mem = s.mem := rfl
@[simp] theorem State.jump_fb : (s.jump w).fb = s.fb := rfl
@[simp] theorem State.jump_dirty : (s.jump w).dirty = s.dirty := rfl
@[simp] theorem State.jump_packed : (s.jump w).packed = s.packed := rfl
@[simp] theorem State.jump_keys : (s.jump w).keys = s.keys := rfl
@[simp] theorem State.jump_keyEvt : (s.jump w).keyEvt = s.keyEvt := rfl
@[simp] theorem State.jump_mode : (s.jump w).mode = s.mode := rfl
@[simp] theorem State.jump_fault : (s.jump w).fault = s.fault := rfl
@[simp] theorem State.jump_tLast : (s.jump w).tLast = s.tLast := rfl
@[simp] theorem State.jump_accCpu : (s.jump w).accCpu = s.accCpu := rfl
@[simp] theorem State.jump_accTmr : (s.jump w).accTmr = s.accTmr := rfl
@[simp] theorem State.jump_reports : (s.jump w).reports = s.reports := rfl
@[simp] theorem State.jump_draws : (s.jump w).draws = s.draws := rfl
@[simp] theorem State.jump_loadable : (s.jump w).loadable = s.loadable := rfl

end

/-! ## State.nopAnomaly -/

section
variable (s : State) (k : Anomaly) (op : Word)

@[simp] theorem State.nopAnomaly_v : (s.nopAnomaly k op).v = s.v := rfl
@[simp] theorem State.nopAnomaly_i : (s.nopAnomaly k op).i = s.i := rfl
@[simp] theorem State.nopAnomaly_pc : (s.nopAnomaly k op).pc = s.pc + 2 := rfl
@[simp] theorem State.nopAnomaly_sp : (s.nopAnomaly k op).sp = s.sp := rfl
@[simp] theorem State.nopAnomaly_stk : (s.nopAnomaly k op).stk = s.stk := rfl
@[simp] theorem State.nopAnomaly_dt : (s.nopAnomaly k op).dt = s.dt := rfl
@[simp] theorem State.nopAnomaly_st : (s.nopAnomaly k op).st = s.st := rfl
@[simp] theorem State.nopAnomaly_mem : (s.nopAnomaly k op).mem = s.mem := rfl
@[simp] theorem State.nopAnomaly_fb : (s.nopAnomaly k op).fb = s.fb := rfl
@[simp] theorem State.nopAnomaly_dirty : (s.nopAnomaly k op).dirty = s.dirty := rfl
@[simp] theorem State.nopAnomaly_packed : (s.nopAnomaly k op).packed = s.packed := rfl
@[simp] theorem State.nopAnomaly_keys : (s.nopAnomaly k op).keys = s.keys := rfl
@[simp] theorem State.nopAnomaly_keyEvt : (s.nopAnomaly k op).keyEvt = s.keyEvt := rfl
@[simp] theorem State.nopAnomaly_mode : (s.nopAnomaly k op).mode = s.mode := rfl
@[simp] theorem State.nopAnomaly_fault : (s.nopAnomaly k op).fault = s.fault := rfl
@[simp] theorem State.nopAnomaly_tLast : (s.nopAnomaly k op).tLast = s.tLast := rfl
@[simp] theorem State.nopAnomaly_accCpu : (s.nopAnomaly k op).accCpu = s.accCpu := rfl
@[simp] theorem State.nopAnomaly_accTmr : (s.nopAnomaly k op).accTmr = s.accTmr := rfl
@[simp] theorem State.nopAnomaly_reports : (s.nopAnomaly k op).reports = s.reports ++ [.anomaly k s.pc op] := rfl
@[simp] theorem State.nopAnomaly_draws : (s.nopAnomaly k op).draws = s.draws := rfl
@[simp] theorem State.nopAnomaly_loadable : (s.nopAnomaly k op).loadable = s.loadable := rfl

end

/-! ## State.raiseFatal -/

section
variable (s : State) (c : FatalCause)

@[simp] theorem State.raiseFatal_v : (s.raiseFatal c).v = s.v := rfl
@[simp] theorem State.raiseFatal_i : (s.raiseFatal c).i = s.i := rfl
@[simp] theorem State.raiseFatal_pc : (s.raiseFatal c).pc = s.pc := rfl
@[simp] theorem State.raiseFatal_sp : (s.raiseFatal c).sp = s.sp := rfl
@[simp] theorem State.raiseFatal_stk : (s.raiseFatal c).stk = s.stk := rfl
@[simp] theorem State.raiseFatal_dt : (s.raiseFatal c).dt = s.dt := rfl
@[simp] theorem State.raiseFatal_st : (s.raiseFatal c).st = s.st := rfl
@[simp] theorem State.raiseFatal_mem : (s.raiseFatal c).mem = s.mem := rfl
@[simp] theorem State.raiseFatal_fb : (s.raiseFatal c).fb = s.fb := rfl
@[simp] theorem State.raiseFatal_dirty : (s.raiseFatal c).dirty = s.dirty := rfl
@[simp] theorem State.raiseFatal_packed : (s.raiseFatal c).packed = s.packed := rfl
@[simp] theorem State.raiseFatal_keys : (s.raiseFatal c).keys = s.keys := rfl
@[simp] theorem State.raiseFatal_keyEvt : (s.raiseFatal c).keyEvt = s.keyEvt := rfl
@[simp] theorem State.raiseFatal_mode : (s.raiseFatal c).mode = .halted := rfl
@[simp] theorem State.raiseFatal_fault : (s.raiseFatal c).fault = some ⟨c, s.pc⟩ := rfl
@[simp] theorem State.raiseFatal_tLast : (s.raiseFatal c).tLast = s.tLast := rfl
@[simp] theorem State.raiseFatal_accCpu : (s.raiseFatal c).accCpu = s.accCpu := rfl
@[simp] theorem State.raiseFatal_accTmr : (s.raiseFatal c).accTmr = s.accTmr := rfl
@[simp] theorem State.raiseFatal_reports : (s.raiseFatal c).reports = s.reports := rfl
@[simp] theorem State.raiseFatal_draws : (s.raiseFatal c).draws = s.draws := rfl
@[simp] theorem State.raiseFatal_loadable : (s.raiseFatal c).loadable = s.loadable := rfl

end

/-! ## State.storeBlock -/

section
variable (s : State) (n : Nat)

@[simp] theorem State.storeBlock_v : (s.storeBlock n).v = s.v := rfl
@[simp] theorem State.storeBlock_i : (s.storeBlock n).i = s.i := rfl
@[simp] theorem State.storeBlock_pc : (s.storeBlock n).pc = s.pc := rfl
@[simp] theorem State.storeBlock_sp : (s.storeBlock n).sp = s.sp := rfl
@[simp] theorem State.storeBlock_stk : (s.storeBlock n).stk = s.stk := rfl
@[simp] theorem State.storeBlock_dt : (s.storeBlock n).dt = s.dt := rfl
@[simp] theorem State.storeBlock_st : (s.storeBlock n).st = s.st := rfl
@[simp] theorem State.storeBlock_mem : (s.storeBlock n).mem = (List.range n).foldl (fun m k => Memory.write m (s.dataAddr k) (s.reg (blockReg k))) s.mem := rfl
@[simp] theorem State.storeBlock_fb : (s.storeBlock n).fb = s.fb := rfl
@[simp] theorem State.storeBlock_dirty : (s.storeBlock n).dirty = s.dirty := rfl
@[simp] theorem State.storeBlock_packed : (s.storeBlock n).packed = s.packed := rfl
@[simp] theorem State.storeBlock_keys : (s.storeBlock n).keys = s.keys := rfl
@[simp] theorem State.storeBlock_keyEvt : (s.storeBlock n).keyEvt = s.keyEvt := rfl
@[simp] theorem State.storeBlock_mode : (s.storeBlock n).mode = s.mode := rfl
@[simp] theorem State.storeBlock_fault : (s.storeBlock n).fault = s.fault := rfl
@[simp] theorem State.storeBlock_tLast : (s.storeBlock n).tLast = s.tLast := rfl
@[simp] theorem State.storeBlock_accCpu : (s.storeBlock n).accCpu = s.accCpu := rfl
@[simp] theorem State.storeBlock_accTmr : (s.storeBlock n).accTmr = s.accTmr := rfl
@[simp] theorem State.storeBlock_reports : (s.storeBlock n).reports = s.reports := rfl
@[simp] theorem State.storeBlock_draws : (s.storeBlock n).draws = s.draws := rfl
@[simp] theorem State.storeBlock_loadable : (s.storeBlock n).loadable = s.loadable := rfl

end

/-! ## State.timerTick -/

section
variable (s : State)

@[simp] theorem State.timerTick_v : (s.timerTick).v = s.v := rfl
@[simp] theorem State.timerTick_i : (s.timerTick).i = s.i := rfl
@[simp] theorem State.timerTick_pc : (s.timerTick).pc = s.pc := rfl
@[simp] theorem State.timerTick_sp : (s.timerTick).sp = s.sp := rfl
@[simp] theorem State.timerTick_stk : (s.timerTick).stk = s.stk := rfl
@[simp] theorem State.timerTick_dt : (s.timerTick).dt = if s.dt = 0 then 0 else s.dt - 1 := rfl
@[simp] theorem State.timerTick_st : (s.timerTick).st = if s.st = 0 then 0 else s.st - 1 := rfl
@[simp] theorem State.timerTick_mem : (s.timerTick).mem = s.mem := rfl
@[simp] theorem State.timerTick_fb : (s.timerTick).fb = s.fb := rfl
@[simp] theorem State.timerTick_dirty : (s.timerTick).dirty = s.dirty := rfl
@[simp] theorem State.timerTick_packed : (s.timerTick).packed = s.packed := rfl
@[simp] theorem State.timerTick_keys : (s.timerTick).keys = s.keys := rfl
@[simp] theorem State.timerTick_keyEvt : (s.timerTick).keyEvt = s.keyEvt := rfl
@[simp] theorem State.timerTick_mode : (s.timerTick).mode = s.mode := rfl
@[simp] theorem State.timerTick_fault : (s.timerTick).fault = s.fault := rfl
@[simp] theorem State.timerTick_tLast : (s.timerTick).tLast = s.tLast := rfl
@[simp] theorem State.timerTick_accCpu : (s.timerTick).accCpu = s.accCpu := rfl
@[simp] theorem State.timerTick_accTmr : (s.timerTick).accTmr = s.accTmr := rfl
@[simp] theorem State.timerTick_reports : (s.timerTick).reports = s.reports := rfl
@[simp] theorem State.timerTick_draws : (s.timerTick).draws = s.draws := rfl
@[simp] theorem State.timerTick_loadable : (s.timerTick).loadable = s.loadable := rfl

end

/-! ## State.pressKey -/

section
variable (s : State) (k : Int)

@[simp] theorem State.pressKey_v : (s.pressKey k).v = s.v := rfl
@[simp] theorem State.pressKey_i : (s.pressKey k).i = s.i := rfl
@[simp] theorem State.pressKey_pc : (s.pressKey k).pc = s.pc := rfl
@[simp] theorem State.pressKey_sp : (s.pressKey k).sp = s.sp := rfl
@[simp] theorem State.pressKey_stk : (s.pressKey k).stk = s.stk := rfl
@[simp] theorem State.pressKey_dt : (s.pressKey k).dt = s.dt := rfl
@[simp] theorem State.pressKey_st : (s.pressKey k).st = s.st := rfl
@[simp] theorem State.pressKey_mem : (s.pressKey k).mem = s.mem := rfl
@[simp] theorem State.pressKey_fb : (s.pressKey k).fb = s.fb := rfl
@[simp] theorem State.pressKey_dirty : (s.pressKey k).dirty = s.dirty := rfl
@[simp] theorem State.pressKey_packed : (s.pressKey k).packed = s.packed := rfl
@[simp] theorem State.pressKey_keys : (s.pressKey k).keys = KeyBits.put s.keys (keyIdent k) true := rfl
@[simp] theorem State.pressKey_keyEvt : (s.pressKey k).keyEvt = KeyBits.put s.keyEvt (keyIdent k) true := rfl
@[simp] theorem State.pressKey_mode : (s.pressKey k).mode = s.mode := rfl
@[simp] theorem State.pressKey_fault : (s.pressKey k).fault = s.fault := rfl
@[simp] theorem State.pressKey_tLast : (s.pressKey k).tLast = s.tLast := rfl
@[simp] theorem State.pressKey_accCpu : (s.pressKey k).accCpu = s.accCpu := rfl
@[simp] theorem State.pressKey_accTmr : (s.pressKey k).accTmr = s.accTmr := rfl
@[simp] theorem State.pressKey_reports : (s.pressKey k).reports = s.reports := rfl
@[simp] theorem State.pressKey_draws : (s.pressKey k).draws = s.draws := rfl
@[simp] theorem State.pressKey_loadable : (s.pressKey k).loadable = s.loadable := rfl

end

/-! ## State.unpressKey -/

section
variable (s : State) (k : Int)

@[simp] theorem State.unpressKey_v : (s.unpressKey k).v = s.v := rfl
@[simp] theorem State.unpressKey_i : (s.unpressKey k).i = s.i := rfl
@[simp] theorem State.unpressKey_pc : (s.unpressKey k).pc = s.pc := rfl
@[simp] theorem State.unpressKey_sp : (s.unpressKey k).sp = s.sp := rfl
@[simp] theorem State.unpressKey_stk : (s.unpressKey k).stk = s.stk := rfl
@[simp] theorem State.unpressKey_dt : (s.unpressKey k).dt = s.dt := rfl
@[simp] theorem State.unpressKey_st : (s.unpressKey k).st = s.st := rfl
@[simp] theorem State.unpressKey_mem : (s.unpressKey k).mem = s.mem := rfl
@[simp] theorem State.unpressKey_fb : (s.unpressKey k).fb = s.fb := rfl
@[simp] theorem State.unpressKey_dirty : (s.unpressKey k).dirty = s.dirty := rfl
@[simp] theorem State.unpressKey_packed : (s.unpressKey k).packed = s.packed := rfl
@[simp] theorem State.unpressKey_keys : (s.unpressKey k).keys = KeyBits.put s.keys (keyIdent k) false := rfl
@[simp] theorem State.unpressKey_keyEvt : (s.unpressKey k).keyEvt = s.keyEvt := rfl
@[simp] theorem State.unpressKey_mode : (s.unpressKey k).mode = s.mode := rfl
@[simp] theorem State.unpressKey_fault : (s.unpressKey k).fault = s.fault := rfl
@[simp] theorem State.unpressKey_tLast : (s.unpressKey k).tLast = s.tLast := rfl
@[simp] theorem State.unpressKey_accCpu : (s.unpressKey k).accCpu = s.accCpu := rfl
@[simp] theorem State.unpressKey_accTmr : (s.unpressKey k).accTmr = s.accTmr := rfl
@[simp] theorem State.unpressKey_reports : (s.unpressKey k).reports = s.reports := rfl
@[simp] theorem State.unpressKey_draws : (s.unpressKey k).draws = s.draws := rfl
@[simp] theorem State.unpressKey_loadable : (s.unpressKey k).loadable = s.loadable := rfl

end

/-! ## The reset state (10_state.md R26) -/

@[simp] theorem State.reset_v : State.reset.v = Vector.replicate 16 0 := rfl
@[simp] theorem State.reset_i : State.reset.i = 0 := rfl
@[simp] theorem State.reset_pc : State.reset.pc = 0x200 := rfl
@[simp] theorem State.reset_sp : State.reset.sp = 0 := rfl
@[simp] theorem State.reset_stk : State.reset.stk = Vector.replicate 16 0 := rfl
@[simp] theorem State.reset_dt : State.reset.dt = 0 := rfl
@[simp] theorem State.reset_st : State.reset.st = 0 := rfl
@[simp] theorem State.reset_mem : State.reset.mem = [] := rfl
@[simp] theorem State.reset_dirty : State.reset.dirty = true := rfl
@[simp] theorem State.reset_mode : State.reset.mode = .running := rfl
@[simp] theorem State.reset_fault : State.reset.fault = none := rfl
@[simp] theorem State.reset_tLast : State.reset.tLast = 0 := rfl
@[simp] theorem State.reset_accCpu : State.reset.accCpu = 0 := rfl
@[simp] theorem State.reset_accTmr : State.reset.accTmr = 0 := rfl
@[simp] theorem State.reset_reports : State.reset.reports = [] := rfl
@[simp] theorem State.reset_loadable : State.reset.loadable = true := rfl

/-! ## Reset with any font (70_reset_and_hazards.md R190) -/

section
variable (font : FontTable) (s : State) (p : Params)

@[simp] theorem State.resetWith_v : (State.resetWith font).v = State.reset.v := rfl
@[simp] theorem State.resetWith_i : (State.resetWith font).i = State.reset.i := rfl
@[simp] theorem State.resetWith_pc : (State.resetWith font).pc = State.reset.pc := rfl
@[simp] theorem State.resetWith_sp : (State.resetWith font).sp = State.reset.sp := rfl
@[simp] theorem State.resetWith_stk : (State.resetWith font).stk = State.reset.stk := rfl
@[simp] theorem State.resetWith_dt : (State.resetWith font).dt = State.reset.dt := rfl
@[simp] theorem State.resetWith_st : (State.resetWith font).st = State.reset.st := rfl
@[simp] theorem State.resetWith_fb : (State.resetWith font).fb = State.reset.fb := rfl
@[simp] theorem State.resetWith_dirty : (State.resetWith font).dirty = State.reset.dirty := rfl
@[simp] theorem State.resetWith_packed : (State.resetWith font).packed = State.reset.packed := rfl
@[simp] theorem State.resetWith_keys : (State.resetWith font).keys = State.reset.keys := rfl
@[simp] theorem State.resetWith_keyEvt : (State.resetWith font).keyEvt = State.reset.keyEvt := rfl
@[simp] theorem State.resetWith_mode : (State.resetWith font).mode = State.reset.mode := rfl
@[simp] theorem State.resetWith_fault : (State.resetWith font).fault = State.reset.fault := rfl
@[simp] theorem State.resetWith_tLast : (State.resetWith font).tLast = State.reset.tLast := rfl
@[simp] theorem State.resetWith_accCpu : (State.resetWith font).accCpu = State.reset.accCpu := rfl
@[simp] theorem State.resetWith_accTmr : (State.resetWith font).accTmr = State.reset.accTmr := rfl
@[simp] theorem State.resetWith_reports : (State.resetWith font).reports = State.reset.reports := rfl
@[simp] theorem State.resetWith_draws : (State.resetWith font).draws = State.reset.draws := rfl
@[simp] theorem State.resetWith_loadable : (State.resetWith font).loadable = State.reset.loadable := rfl

@[simp] theorem State.hostReset_v : (s.hostReset p).v = State.reset.v := rfl
@[simp] theorem State.hostReset_i : (s.hostReset p).i = State.reset.i := rfl
@[simp] theorem State.hostReset_pc : (s.hostReset p).pc = State.reset.pc := rfl
@[simp] theorem State.hostReset_sp : (s.hostReset p).sp = State.reset.sp := rfl
@[simp] theorem State.hostReset_stk : (s.hostReset p).stk = State.reset.stk := rfl
@[simp] theorem State.hostReset_dt : (s.hostReset p).dt = State.reset.dt := rfl
@[simp] theorem State.hostReset_st : (s.hostReset p).st = State.reset.st := rfl
@[simp] theorem State.hostReset_fb : (s.hostReset p).fb = State.reset.fb := rfl
@[simp] theorem State.hostReset_dirty : (s.hostReset p).dirty = State.reset.dirty := rfl
@[simp] theorem State.hostReset_packed : (s.hostReset p).packed = State.reset.packed := rfl
@[simp] theorem State.hostReset_keys : (s.hostReset p).keys = State.reset.keys := rfl
@[simp] theorem State.hostReset_keyEvt : (s.hostReset p).keyEvt = State.reset.keyEvt := rfl
@[simp] theorem State.hostReset_mode : (s.hostReset p).mode = State.reset.mode := rfl
@[simp] theorem State.hostReset_fault : (s.hostReset p).fault = State.reset.fault := rfl
@[simp] theorem State.hostReset_tLast : (s.hostReset p).tLast = State.reset.tLast := rfl
@[simp] theorem State.hostReset_accCpu : (s.hostReset p).accCpu = State.reset.accCpu := rfl
@[simp] theorem State.hostReset_accTmr : (s.hostReset p).accTmr = State.reset.accTmr := rfl
@[simp] theorem State.hostReset_reports : (s.hostReset p).reports = State.reset.reports := rfl
@[simp] theorem State.hostReset_draws : (s.hostReset p).draws = s.draws := rfl
@[simp] theorem State.hostReset_loadable : (s.hostReset p).loadable = State.reset.loadable := rfl
@[simp] theorem State.hostReset_mem : (s.hostReset p).mem = (State.resetWith p.font).mem := rfl

end

end Sys2Proof.Machine
end

