-- ==== Sys2Proof/Laws/Memory.lean ====
section
/-! SUPPORT. The laws of memory (spec/20_memory.md R54): read after write, other addresses kept, and every memory operation
keeps the canonical form. The read laws hold for every cell list, canonical or not. -/

namespace Sys2Proof.Machine

theorem Memory.read_erase_same (m : Memory) (a : Nat) : Memory.read (Memory.erase m a) a = resetByte a := by
  induction m with
  | nil => rfl
  | cons c rest ih =>
    unfold Memory.erase at *
    by_cases h : c.1 = a
    · simp [h, ih]
    · simp [h, Memory.read, ih]

theorem Memory.read_erase_other (m : Memory) {a b : Nat} (h : b ≠ a) :
    Memory.read (Memory.erase m a) b = Memory.read m b := by
  induction m with
  | nil => rfl
  | cons c rest ih =>
    unfold Memory.erase at *
    by_cases hc : c.1 = a
    · have : ¬ c.1 = b := fun e => h (e.symm.trans hc)
      simp [hc, Memory.read, ih]
      intro e; exact absurd e.symm h
    · simp [hc, Memory.read, ih]

theorem Memory.read_insert_other (m : Memory) {a b : Nat} (v : Byte) (h : b ≠ a) :
    Memory.read (Memory.insert m a v) b = Memory.read m b := by
  induction m with
  | nil => simp [Memory.insert, Memory.read, Ne.symm h]
  | cons c rest ih =>
    unfold Memory.insert
    split
    · simp [Memory.read, Ne.symm h]
    · simp [Memory.read, ih]

theorem Memory.read_insert_same (m : Memory) (a : Nat) (v : Byte) (h : ∀ c ∈ m, c.1 ≠ a) :
    Memory.read (Memory.insert m a v) a = v := by
  induction m with
  | nil => simp [Memory.insert, Memory.read]
  | cons c rest ih =>
    unfold Memory.insert
    split
    · simp [Memory.read]
    · have hc := h c (by simp)
      simp [Memory.read, hc, ih (fun d hd => h d (by simp [hd]))]

theorem Memory.erase_ne (m : Memory) (a : Nat) : ∀ c ∈ Memory.erase m a, c.1 ≠ a := by
  intro c hc
  simpa using (List.mem_filter.mp hc).2

/-- A read after a write to the same address gives the byte written. -/
theorem Memory.read_write_same (m : Memory) {a : Nat} (v : Byte) (h : a < memSize) :
    Memory.read (Memory.write m a v) a = v := by
  unfold Memory.write
  simp only [h, if_true]
  split
  · next e => rw [Memory.read_erase_same, e]
  · exact Memory.read_insert_same _ _ _ (Memory.erase_ne m a)

/-- A write leaves every other address alone. -/
theorem Memory.read_write_other (m : Memory) {a b : Nat} (v : Byte) (h : b ≠ a) :
    Memory.read (Memory.write m a v) b = Memory.read m b := by
  unfold Memory.write
  split
  · split
    · exact Memory.read_erase_other m h
    · rw [Memory.read_insert_other _ _ h, Memory.read_erase_other m h]
  · rfl

/-- Both cases of a read after a write. -/
theorem Memory.read_write (m : Memory) (a b : Nat) (v : Byte) (h : a < memSize) :
    Memory.read (Memory.write m a v) b = if b = a then v else Memory.read m b := by
  split
  · next e => subst e; exact Memory.read_write_same m v h
  · next e => exact Memory.read_write_other m v e

/-- A canonical list stays canonical when it is read from a lower start. -/
theorem Memory.wfFrom_le {m : Memory} {lo hi : Nat} (hle : lo ≤ hi) (h : Memory.wfFrom hi m = true) :
    Memory.wfFrom lo m = true := by
  cases m with
  | nil => rfl
  | cons c rest =>
    simp only [Memory.wfFrom, Bool.and_eq_true, decide_eq_true_eq] at *
    exact ⟨⟨⟨by omega, h.1.1.2⟩, h.1.2⟩, h.2⟩

theorem Memory.wfFrom_erase {m : Memory} {lo : Nat} (a : Nat) (h : Memory.wfFrom lo m = true) :
    Memory.wfFrom lo (Memory.erase m a) = true := by
  induction m generalizing lo with
  | nil => rfl
  | cons c rest ih =>
    simp only [Memory.wfFrom, Bool.and_eq_true, decide_eq_true_eq] at h
    have hr := ih h.2
    unfold Memory.erase at *
    by_cases hc : c.1 = a
    · simpa [hc] using Memory.wfFrom_le (show lo ≤ a + 1 by omega) (hc ▸ hr)
    · simp [hc, Memory.wfFrom, h.1.1.1, h.1.1.2, h.1.2, hr]

theorem Memory.wfFrom_insert {m : Memory} {lo a : Nat} {v : Byte} (hlo : lo ≤ a) (ha : a < memSize)
    (hv : v ≠ resetByte a) (hm : ∀ c ∈ m, c.1 ≠ a) (h : Memory.wfFrom lo m = true) :
    Memory.wfFrom lo (Memory.insert m a v) = true := by
  induction m generalizing lo with
  | nil => simp [Memory.insert, Memory.wfFrom, hlo, ha, hv]
  | cons c rest ih =>
    simp only [Memory.wfFrom, Bool.and_eq_true, decide_eq_true_eq] at h
    have hc := hm c (by simp)
    unfold Memory.insert
    split
    · next hlt => simp [Memory.wfFrom, hlo, ha, hv, h.1.1.2, h.1.2, h.2]; omega
    · next hlt =>
      have := ih (lo := c.1 + 1) (by omega) (fun d hd => hm d (by simp [hd])) h.2
      simp [Memory.wfFrom, h.1.1.1, h.1.1.2, h.1.2, this]

/-- A write keeps the canonical form. -/
theorem Memory.wf_write {m : Memory} (a : Nat) (v : Byte) (h : Memory.wf m = true) :
    Memory.wf (Memory.write m a v) = true := by
  unfold Memory.write
  split
  · next ha =>
    split
    · exact Memory.wfFrom_erase a h
    · next hv => exact Memory.wfFrom_insert (Nat.zero_le a) ha hv (Memory.erase_ne m a) (Memory.wfFrom_erase a h)
  · exact h

/-- Consecutive writes keep the canonical form. -/
theorem Memory.wf_writeBytes {m : Memory} (a : Nat) (bytes : List Byte) (h : Memory.wf m = true) :
    Memory.wf (Memory.writeBytes m a bytes) = true := by
  induction bytes generalizing m a with
  | nil => exact h
  | cons b rest ih => exact ih (a + 1) (Memory.wf_write a b h)

/-- Any sequence of writes keeps the canonical form. -/
theorem Memory.wf_foldl_write {m : Memory} (l : List Nat) (addr : Nat → Nat) (val : Nat → Byte)
    (h : Memory.wf m = true) :
    Memory.wf (l.foldl (fun m k => Memory.write m (addr k) (val k)) m) = true := by
  induction l generalizing m with
  | nil => exact h
  | cons k rest ih => exact ih (Memory.wf_write _ _ h)

/-- What every address reads as after consecutive writes that fit in memory. -/
theorem Memory.read_writeBytes (m : Memory) (a : Nat) (bytes : List Byte) (h : a + bytes.length ≤ memSize) (b : Nat) :
    Memory.read (Memory.writeBytes m a bytes) b =
      if a ≤ b ∧ b < a + bytes.length then bytes.getD (b - a) 0 else Memory.read m b := by
  induction bytes generalizing m a with
  | nil =>
    have : ¬ (a ≤ b ∧ b < a) := by omega
    simp [Memory.writeBytes, this]
  | cons v rest ih =>
    simp only [List.length_cons] at h
    rw [Memory.writeBytes, ih _ _ (by omega), Memory.read_write _ _ _ _ (by omega)]
    by_cases hb : b = a
    · subst hb
      have : ¬ (b + 1 ≤ b) := by omega
      simp [this]
    · by_cases hin : a + 1 ≤ b ∧ b < a + 1 + rest.length
      · have h1 : a ≤ b ∧ b < a + (rest.length + 1) := by omega
        have h2 : b - a = (b - (a + 1)) + 1 := by omega
        rw [if_pos hin, List.length_cons, if_pos h1, h2, List.getD_cons_succ]
      · have h1 : ¬ (a ≤ b ∧ b < a + (rest.length + 1)) := by omega
        rw [if_neg hin, List.length_cons, if_neg h1, if_neg hb]

/-- Addresses outside consecutive writes are kept. -/
theorem Memory.read_writeBytes_other (m : Memory) (a : Nat) (bytes : List Byte) {b : Nat}
    (h : b < a ∨ a + bytes.length ≤ b) : Memory.read (Memory.writeBytes m a bytes) b = Memory.read m b := by
  induction bytes generalizing m a with
  | nil => rfl
  | cons v rest ih =>
    simp only [List.length_cons] at h
    rw [Memory.writeBytes, ih _ _ (by omega), Memory.read_write_other _ _ (by omega)]

/-- What every address reads as after a block of `n` ascending writes from `base` that fits in memory. -/
theorem Memory.read_foldl_write (m : Memory) (n base : Nat) (val : Nat → Byte) (h : base + n ≤ memSize) (b : Nat) :
    Memory.read ((List.range n).foldl (fun m k => Memory.write m (base + k) (val k)) m) b =
      if base ≤ b ∧ b < base + n then val (b - base) else Memory.read m b := by
  induction n with
  | zero =>
    have : ¬ (base ≤ b ∧ b < base) := by omega
    simp [this]
  | succ n ih =>
    rw [List.range_succ, List.foldl_append, List.foldl_cons, List.foldl_nil, Memory.read_write _ _ _ _ (by omega),
      ih (by omega)]
    by_cases hb : b = base + n
    · subst hb; simp
    · by_cases hin : base ≤ b ∧ b < base + n
      · have : base ≤ b ∧ b < base + (n + 1) := by omega
        simp [hb, hin, this]
      · have : ¬ (base ≤ b ∧ b < base + (n + 1)) := by omega
        simp [hb, hin, this]

/-- Addresses outside a block of writes are kept. -/
theorem Memory.read_foldl_write_other (m : Memory) (l : List Nat) (addr : Nat → Nat) (val : Nat → Byte) {b : Nat}
    (h : ∀ k ∈ l, b ≠ addr k) :
    Memory.read (l.foldl (fun m k => Memory.write m (addr k) (val k)) m) b = Memory.read m b := by
  induction l generalizing m with
  | nil => rfl
  | cons k rest ih =>
    rw [List.foldl_cons, ih _ (fun j hj => h j (by simp [hj])), Memory.read_write_other _ _ (h k (by simp))]

@[simp] theorem Memory.read_nil (a : Nat) : Memory.read [] a = resetByte a := rfl

end Sys2Proof.Machine
end

