-- ==== Sys2Proof/Laws/Boot.lean ====
section
/-! SUPPORT. What memory holds after a Reset with any font table (spec/20_memory.md R43, 10_state.md R26). -/

namespace Sys2Proof.Machine

/-- Every byte of memory after a Reset: the table below 0x050, zero above. -/
theorem State.read_resetWith (font : FontTable) (a : Nat) :
    Memory.read (State.resetWith font).mem a = if h : a < 80 then font[a] else 0 := by
  have hlen : font.toList.length = 80 := Vector.length_toList
  show Memory.read (Memory.writeBytes [] 0 font.toList) a = _
  rw [Memory.read_writeBytes _ _ _ (by rw [hlen]; decide), hlen]
  by_cases h : a < 80
  · have : a < font.toList.length := hlen.symm ▸ h
    simp [h, List.getD_eq_getElem?_getD]
  · have hd : resetByte a = 0 := List.getD_eq_default _ _ (Nat.le_of_not_lt h)
    simp [h, hd]

/-- The memory of a Reset is in its canonical form. -/
theorem State.wf_resetWith (font : FontTable) : Memory.wf (State.resetWith font).mem = true :=
  Memory.wf_writeBytes 0 _ rfl

/-- Writing what an unlisted address reads as leaves the empty list empty. -/
theorem Memory.writeBytes_resetBytes (a : Nat) (bytes : List Byte) (h : ∀ k < bytes.length, bytes[k]? = some (resetByte (a + k))) :
    Memory.writeBytes [] a bytes = [] := by
  induction bytes generalizing a with
  | nil => rfl
  | cons b rest ih =>
    have hb : b = resetByte a := by simpa using h 0 (by simp)
    have hw : Memory.write [] a b = [] := by simp [Memory.write, Memory.erase, hb]
    rw [Memory.writeBytes, hw]
    refine ih (a + 1) fun k hk => ?_
    have := h (k + 1) (by simpa using hk)
    rwa [List.getElem?_cons_succ, Nat.add_comm k 1, ← Nat.add_assoc] at this

/-- With the default table memory lists nothing: `State.reset` is the Reset with the default of the parameter. -/
theorem State.resetWith_defaultFont : State.resetWith defaultFont = State.reset := by
  have h : Memory.writeBytes [] 0 defaultFont.toList = [] := Memory.writeBytes_resetBytes _ _ (by decide)
  show { State.reset with mem := Memory.writeBytes [] 0 defaultFont.toList } = State.reset
  rw [h]
  rfl

end Sys2Proof.Machine
end

