-- ==== Sys2Proof/Laws/Decode.lean ====
section
/-! SUPPORT. The fields of a word laid out in one of the formats of spec/30_encoding.md R62, the two bytes of a word, and what
rejection of a word means. Callers cite these and do not unfold the bit operations. -/

namespace Sys2Proof

/-! ## Fields of the formats (R61, R62) -/

/-- A bit of a word made of two parts. -/
theorem getLsbD_pair {a b : Nat} (hi : BitVec a) (lo : BitVec b) (k : Nat) :
    (hi ++ lo).getLsbD k = if k < b then lo.getLsbD k else hi.getLsbD (k - b) := by
  simp [BitVec.getLsbD_append]

@[simp] theorem opClass_formatNNN (c : Nibble) (nnn : Addr) : opClass (formatNNN c nnn) = c := by
  refine BitVec.eq_of_getLsbD_eq fun i hi => ?_
  refine (BitVec.getLsbD_extractLsb' ..).trans ?_
  simp only [hi, decide_true, Bool.true_and]
  refine (getLsbD_pair ..).trans ((if_neg (by omega)).trans ?_)
  exact congrArg _ (by omega)

@[simp] theorem opNnn_formatNNN (c : Nibble) (nnn : Addr) : opNnn (formatNNN c nnn) = nnn := by
  refine BitVec.eq_of_getLsbD_eq fun i hi => ?_
  refine (BitVec.getLsbD_extractLsb' ..).trans ?_
  simp only [hi, decide_true, Bool.true_and]
  refine (getLsbD_pair ..).trans ((if_pos (by omega)).trans ?_)
  exact congrArg _ (by omega)

@[simp] theorem opClass_formatXKK (c : Nibble) (x : RegIx) (kk : Byte) : opClass (formatXKK c x kk) = c := by
  refine BitVec.eq_of_getLsbD_eq fun i hi => ?_
  refine (BitVec.getLsbD_extractLsb' ..).trans ?_
  simp only [hi, decide_true, Bool.true_and]
  refine (getLsbD_pair ..).trans ((if_neg (by omega)).trans ?_)
  exact congrArg _ (by omega)

@[simp] theorem opX_formatXKK (c : Nibble) (x : RegIx) (kk : Byte) : opX (formatXKK c x kk) = x := by
  refine BitVec.eq_of_getLsbD_eq fun i hi => ?_
  refine (BitVec.getLsbD_extractLsb' ..).trans ?_
  simp only [hi, decide_true, Bool.true_and]
  refine (getLsbD_pair ..).trans ((if_pos (by omega)).trans ?_)
  refine (getLsbD_pair ..).trans ((if_neg (by omega)).trans ?_)
  exact congrArg _ (by omega)

@[simp] theorem opKk_formatXKK (c : Nibble) (x : RegIx) (kk : Byte) : opKk (formatXKK c x kk) = kk := by
  refine BitVec.eq_of_getLsbD_eq fun i hi => ?_
  refine (BitVec.getLsbD_extractLsb' ..).trans ?_
  simp only [hi, decide_true, Bool.true_and]
  refine (getLsbD_pair ..).trans ((if_pos (by omega)).trans ?_)
  refine (getLsbD_pair ..).trans ((if_pos (by omega)).trans ?_)
  exact congrArg _ (by omega)

@[simp] theorem opClass_formatXYN (c : Nibble) (x y : RegIx) (n : Nibble) : opClass (formatXYN c x y n) = c := by
  refine BitVec.eq_of_getLsbD_eq fun i hi => ?_
  refine (BitVec.getLsbD_extractLsb' ..).trans ?_
  simp only [hi, decide_true, Bool.true_and]
  refine (getLsbD_pair ..).trans ((if_neg (by omega)).trans ?_)
  exact congrArg _ (by omega)

@[simp] theorem opX_formatXYN (c : Nibble) (x y : RegIx) (n : Nibble) : opX (formatXYN c x y n) = x := by
  refine BitVec.eq_of_getLsbD_eq fun i hi => ?_
  refine (BitVec.getLsbD_extractLsb' ..).trans ?_
  simp only [hi, decide_true, Bool.true_and]
  refine (getLsbD_pair ..).trans ((if_pos (by omega)).trans ?_)
  refine (getLsbD_pair ..).trans ((if_neg (by omega)).trans ?_)
  exact congrArg _ (by omega)

@[simp] theorem opY_formatXYN (c : Nibble) (x y : RegIx) (n : Nibble) : opY (formatXYN c x y n) = y := by
  refine BitVec.eq_of_getLsbD_eq fun i hi => ?_
  refine (BitVec.getLsbD_extractLsb' ..).trans ?_
  simp only [hi, decide_true, Bool.true_and]
  refine (getLsbD_pair ..).trans ((if_pos (by omega)).trans ?_)
  refine (getLsbD_pair ..).trans ((if_pos (by omega)).trans ?_)
  refine (getLsbD_pair ..).trans ((if_neg (by omega)).trans ?_)
  exact congrArg _ (by omega)

@[simp] theorem opN_formatXYN (c : Nibble) (x y : RegIx) (n : Nibble) : opN (formatXYN c x y n) = n := by
  refine BitVec.eq_of_getLsbD_eq fun i hi => ?_
  refine (BitVec.getLsbD_extractLsb' ..).trans ?_
  simp only [hi, decide_true, Bool.true_and]
  refine (getLsbD_pair ..).trans ((if_pos (by omega)).trans ?_)
  refine (getLsbD_pair ..).trans ((if_pos (by omega)).trans ?_)
  refine (getLsbD_pair ..).trans ((if_pos (by omega)).trans ?_)
  exact congrArg _ (by omega)

/-- Every word is its class and its `nnn`. -/
theorem formatNNN_fields (op : Word) : formatNNN (opClass op) (opNnn op) = op := by
  simp only [formatNNN, opClass, opNnn]
  ext i hi
  simp only [BitVec.getElem_append]
  split
  · simp [BitVec.getLsbD_eq_getElem, hi]
  · have : 12 + (i - 12) = i := by omega
    simp [this, BitVec.getLsbD_eq_getElem, hi]

/-- Every word is its class, its `x` and its `kk`. -/
theorem formatXKK_fields (op : Word) : formatXKK (opClass op) (opX op) (opKk op) = op := by
  simp only [formatXKK, opClass, opX, opKk]
  ext i hi
  simp only [BitVec.getElem_append]
  split
  · split
    · simp [BitVec.getLsbD_eq_getElem, hi]
    · have : 8 + (i - 8) = i := by omega
      simp [this, BitVec.getLsbD_eq_getElem, hi]
  · have : 12 + (i - 12) = i := by omega
    simp [this, BitVec.getLsbD_eq_getElem, hi]

/-- Every word is its class, its `x`, its `y` and its `n`. -/
theorem formatXYN_fields (op : Word) : formatXYN (opClass op) (opX op) (opY op) (opN op) = op := by
  simp only [formatXYN, opClass, opX, opY, opN]
  ext i hi
  simp only [BitVec.getElem_append]
  split
  · split
    · split
      · simp [BitVec.getLsbD_eq_getElem, hi]
      · have : 4 + (i - 4) = i := by omega
        simp [this, BitVec.getLsbD_eq_getElem, hi]
    · have : 8 + (i - 8) = i := by omega
      simp [this, BitVec.getLsbD_eq_getElem, hi]
  · have : 12 + (i - 12) = i := by omega
    simp [this, BitVec.getLsbD_eq_getElem, hi]

/-! ## Bytes (R44, R60) -/

@[simp] theorem wordOfBytes_hi_lo (op : Word) : wordOfBytes (hiByte op) (loByte op) = op := by
  simp only [wordOfBytes, hiByte, loByte]
  ext i hi
  simp only [BitVec.getElem_append]
  split
  · simp [BitVec.getLsbD_eq_getElem, hi]
  · have : 8 + (i - 8) = i := by omega
    simp [this, BitVec.getLsbD_eq_getElem, hi]

@[simp] theorem hiByte_wordOfBytes (hi' lo : Byte) : hiByte (wordOfBytes hi' lo) = hi' := by
  refine BitVec.eq_of_getLsbD_eq fun i hi => ?_
  refine (BitVec.getLsbD_extractLsb' ..).trans ?_
  simp only [hi, decide_true, Bool.true_and]
  refine (getLsbD_pair ..).trans ((if_neg (by omega)).trans ?_)
  exact congrArg _ (by omega)

@[simp] theorem loByte_wordOfBytes (hi' lo : Byte) : loByte (wordOfBytes hi' lo) = lo := by
  refine BitVec.eq_of_getLsbD_eq fun i hi => ?_
  refine (BitVec.getLsbD_extractLsb' ..).trans ?_
  simp only [hi, decide_true, Bool.true_and]
  refine (getLsbD_pair ..).trans ((if_pos (by omega)).trans ?_)
  exact congrArg _ (by omega)

/-- The big-endian assembly as a number (R44). -/
theorem toNat_wordOfBytes (hi lo : Byte) : (wordOfBytes hi lo).toNat = hi.toNat * 256 + lo.toNat := by
  have h := lo.isLt
  simp only [wordOfBytes, BitVec.toNat_append]
  rw [← Nat.shiftLeft_add_eq_or_of_lt h, Nat.shiftLeft_eq]

/-! ## The decoder -/

/-- Decoding two bytes is decoding the word they hold. -/
theorem decode_pair (hi lo : Byte) (rest : List Byte) :
    decode (hi :: lo :: rest) =
      match decodeWord (wordOfBytes hi lo) with
      | .ok i => .ok (i, rest)
      | .error e => .error e := rfl

/-- The decoder rejects a word by name only, and the name carries the word. -/
theorem decodeWord_error {op : Word} {e : DecodeReject} (h : decodeWord op = .error e) : e = .unrecognised op := by
  unfold decodeWord at h
  split at h
  · cases h
  · split at h <;> cases h
    rfl

end Sys2Proof
end

