-- ==== Sys2Proof/Laws/Registers.lean ====
section
/-! SUPPORT. Read after write for registers, keys and pixels, and what the register writes of an instruction leave. -/

namespace Sys2Proof.Machine

/-! ## Registers (10_state.md R10) -/

theorem State.reg_setReg (s : State) (x k : RegIx) (b : Byte) :
    (s.setReg x b).reg k = if k = x then b else s.reg k := by
  simp only [State.reg, State.setReg, Vector.getElem_set]
  by_cases h : k = x
  · subst h; simp
  · have : ¬ x.toNat = k.toNat := fun e => h (BitVec.eq_of_toNat_eq e.symm)
    simp [h, this]

@[simp] theorem State.reg_setReg_same (s : State) (x : RegIx) (b : Byte) : (s.setReg x b).reg x = b := by
  simp [State.reg_setReg]

theorem State.reg_setReg_other (s : State) {x k : RegIx} (b : Byte) (h : k ≠ x) :
    (s.setReg x b).reg k = s.reg k := by
  simp [State.reg_setReg, h]

/-- A register reads the same in two states with the same register file. -/
theorem State.reg_congr {s t : State} (h : t.v = s.v) (k : RegIx) : t.reg k = s.reg k := by
  simp [State.reg, h]

@[simp] theorem State.reg_advance (s : State) (k : RegIx) : s.advance.reg k = s.reg k := rfl

@[simp] theorem State.reg_reset (k : RegIx) : State.reset.reg k = 0 := by
  simp [State.reg]

/-- The result of `writeNoFlag` on every register. -/
theorem State.reg_writeNoFlag (s : State) (x k : RegIx) (b : Byte) :
    (s.writeNoFlag x b).reg k = if k = x then b else s.reg k := by
  simp [State.writeNoFlag, State.reg_setReg]

/-- The result of `writeWithFlag` on every register: the flag is what remains in `VF` (41_alu.md R113). -/
theorem State.reg_writeWithFlag (s : State) (x k : RegIx) (b : Byte) (f : Bool) :
    (s.writeWithFlag x b f).reg k = if k = vf then flagByte f else if k = x then b else s.reg k := by
  simp [State.writeWithFlag, State.reg_setReg]

theorem flagByte_eq (b : Bool) : flagByte b = 0 ∨ flagByte b = 1 := by
  cases b <;> simp [flagByte]

/-! ## Keys (10_state.md R19, R20) -/

theorem KeyBits.get_put (ks : KeyBits) (j k : Nibble) (b : Bool) :
    KeyBits.get (KeyBits.put ks j b) k = if k = j then b else KeyBits.get ks k := by
  simp only [KeyBits.get, KeyBits.put, Vector.getElem_set]
  by_cases h : k = j
  · subst h; simp
  · have : ¬ j.toNat = k.toNat := fun e => h (BitVec.eq_of_toNat_eq e.symm)
    simp [h, this]

@[simp] theorem KeyBits.get_clear (k : Nibble) : KeyBits.get KeyBits.clear k = false := by
  simp [KeyBits.get, KeyBits.clear]

theorem KeyBits.lowest_some {ks : KeyBits} {k : Nibble} (h : KeyBits.lowest ks = some k) :
    KeyBits.get ks k = true :=
  List.find?_some h

/-- The sixteen key numbers in ascending order. -/
theorem mem_keyNumbers (k : Nibble) : k ∈ (List.range 16).map (BitVec.ofNat 4) := by
  revert k; decide

theorem KeyBits.lowest_none {ks : KeyBits} :
    KeyBits.lowest ks = none ↔ ∀ k, KeyBits.get ks k = false := by
  unfold KeyBits.lowest
  rw [List.find?_eq_none]
  exact ⟨fun h k => by simpa using h k (mem_keyNumbers k), fun h k _ => by simp [h k]⟩

/-! ## Pixels (10_state.md R17) -/

theorem FrameBuffer.pixel_setPixel (fb : FrameBuffer) (r r' : Fin 32) (c c' : Fin 64) (b : Bool) :
    FrameBuffer.pixel (FrameBuffer.setPixel fb r c b) r' c' =
      if r' = r ∧ c' = c then b else FrameBuffer.pixel fb r' c' := by
  simp only [FrameBuffer.pixel, FrameBuffer.setPixel, Fin.getElem_fin, Vector.getElem_set]
  by_cases hr : r.val = r'.val
  · have : r' = r := Fin.ext hr.symm
    subst this
    by_cases hc : c.val = c'.val
    · have : c' = c := Fin.ext hc.symm
      subst this; simp
    · have h2 : ¬ c' = c := fun e => hc (congrArg Fin.val e).symm
      simp [hc, h2]
  · have h2 : ¬ r' = r := fun e => hr (congrArg Fin.val e).symm
    simp [hr, h2]

@[simp] theorem FrameBuffer.pixel_allOff (r : Fin 32) (c : Fin 64) :
    FrameBuffer.pixel FrameBuffer.allOff r c = false := by
  simp [FrameBuffer.pixel, FrameBuffer.allOff]

end Sys2Proof.Machine
end

