-- ==== Sys2Proof/Laws/Display.lean ====
section
/-! SUPPORT. What drawing a sprite does, said once (spec/43_display.md R131, R132): the draw is a run of plots over a list of
distinct places, so each place of the list is inverted once and the hit flag tells whether one of them was on. -/

namespace Sys2Proof.Machine

/-- Plots at a list of places, in order. -/
def Canvas.plots (c : Canvas) (l : List (Fin 32 × Fin 64)) : Canvas := l.foldl (fun c p => plotPixel p.1 p.2 c) c

/-- The places of the set bits of one sprite row, left to right. -/
def rowPlaces (row : Fin 32) (x0 bits : Byte) : List (Fin 32 × Fin 64) :=
  ((List.range 8).filter (spriteBit bits)).map (fun k => (row, wrapCol x0 k))

/-- The places of the set bits of an `n`-byte sprite at `I`, top to bottom. -/
def State.spritePlaces (s : State) (x0 y0 : Byte) (n : Nat) : List (Fin 32 × Fin 64) :=
  (List.range n).flatMap (fun r => rowPlaces (wrapRow y0 r) x0 (Memory.read s.mem (s.dataAddr r)))

theorem Canvas.plots_append (c : Canvas) (l l' : List (Fin 32 × Fin 64)) :
    c.plots (l ++ l') = (c.plots l).plots l' := List.foldl_append

theorem drawRow_eq_plots (row : Fin 32) (x0 bits : Byte) (c : Canvas) :
    drawRow row x0 bits c = c.plots (rowPlaces row x0 bits) := by
  unfold drawRow rowPlaces Canvas.plots
  generalize List.range 8 = l
  induction l generalizing c with
  | nil => rfl
  | cons k rest ih =>
    rw [List.foldl_cons, ih]
    by_cases h : spriteBit bits k <;> simp [h]

/-- A draw is the plots at the places of its set bits. -/
theorem State.drawSprite_eq_plots (s : State) (x0 y0 : Byte) (n : Nat) :
    s.drawSprite x0 y0 n = Canvas.plots ⟨s.fb, false⟩ (s.spritePlaces x0 y0 n) := by
  unfold State.drawSprite State.spritePlaces
  induction n with
  | zero => rfl
  | succ n ih =>
    rw [List.range_succ, List.foldl_append, ih, List.flatMap_append, Canvas.plots_append]
    simp [drawRow_eq_plots]

/-- Plots at distinct places: each place of the list is inverted, no other; the hit flag is the old one or an on pixel met. -/
theorem Canvas.plots_spec (l : List (Fin 32 × Fin 64)) (hl : l.Nodup) (c : Canvas) :
    (∀ r k, (c.plots l).fb.pixel r k = if (r, k) ∈ l then !c.fb.pixel r k else c.fb.pixel r k) ∧
    ((c.plots l).hit = true ↔ c.hit = true ∨ ∃ p ∈ l, c.fb.pixel p.1 p.2 = true) := by
  induction l generalizing c with
  | nil => simp [Canvas.plots]
  | cons p rest ih =>
    obtain ⟨hp, hrest⟩ := List.nodup_cons.1 hl
    have hstep : c.plots (p :: rest) = (plotPixel p.1 p.2 c).plots rest := rfl
    have hpix : ∀ q : Fin 32 × Fin 64, q ≠ p → (plotPixel p.1 p.2 c).fb.pixel q.1 q.2 = c.fb.pixel q.1 q.2 := by
      intro q hq
      simp only [plotPixel, FrameBuffer.pixel_setPixel]
      rw [if_neg]
      rintro ⟨h1, h2⟩
      exact hq (Prod.ext h1 h2)
    obtain ⟨hfb, hhit⟩ := ih hrest (plotPixel p.1 p.2 c)
    rw [hstep]
    constructor
    · intro r k
      rw [hfb]
      by_cases e : (r, k) = p
      · subst e
        simp [hp, plotPixel, FrameBuffer.pixel_setPixel]
      · have := hpix (r, k) e
        simp only at this
        simp [this, e]
    · rw [hhit]
      have hmem : (∃ q ∈ rest, (plotPixel p.1 p.2 c).fb.pixel q.1 q.2 = true) ↔
          ∃ q ∈ rest, c.fb.pixel q.1 q.2 = true :=
        exists_congr fun q => and_congr_right fun hq => by
          rw [hpix q (fun e => hp (e ▸ hq))]
      rw [hmem]
      simp [plotPixel, or_assoc]

theorem wrapCol_inj {x0 : Byte} {j k : Nat} (hj : j < 8) (hk : k < 8) (h : wrapCol x0 j = wrapCol x0 k) : j = k := by
  have := congrArg Fin.val h
  simp only [wrapCol, Fin.ofNat] at this
  omega

theorem wrapRow_inj {y0 : Byte} {j k : Nat} (hj : j < 32) (hk : k < 32) (h : wrapRow y0 j = wrapRow y0 k) : j = k := by
  have := congrArg Fin.val h
  simp only [wrapRow, Fin.ofNat] at this
  omega

theorem mem_rowPlaces {row : Fin 32} {x0 bits : Byte} {p : Fin 32 × Fin 64} :
    p ∈ rowPlaces row x0 bits ↔ ∃ j < 8, spriteBit bits j = true ∧ p = (row, wrapCol x0 j) := by
  simp only [rowPlaces, List.mem_map, List.mem_filter, List.mem_range, and_assoc, eq_comm (b := p)]

/-- A place is one of the sprite's if a set bit lands there. -/
theorem State.mem_spritePlaces {s : State} {x0 y0 : Byte} {n : Nat} {p : Fin 32 × Fin 64} :
    p ∈ s.spritePlaces x0 y0 n ↔ ∃ k < n, ∃ j < 8,
      spriteBit (Memory.read s.mem (s.dataAddr k)) j = true ∧ p = (wrapRow y0 k, wrapCol x0 j) := by
  simp only [State.spritePlaces, List.mem_flatMap, List.mem_range, mem_rowPlaces]

/-- The places of a sprite of at most 32 rows are distinct (R131, corner cases). -/
theorem State.nodup_spritePlaces (s : State) (x0 y0 : Byte) {n : Nat} (hn : n ≤ 32) :
    (s.spritePlaces x0 y0 n).Nodup := by
  unfold State.spritePlaces
  rw [List.nodup_flatMap]
  constructor
  · intro r _
    refine List.Nodup.map_on ?_ (List.nodup_range.filter _)
    intro j hj k hk h
    simp only [List.mem_filter, List.mem_range] at hj hk
    exact wrapCol_inj hj.1 hk.1 (Prod.ext_iff.1 h).2
  · refine List.Pairwise.imp_of_mem ?_ (List.nodup_range (n := n))
    intro a b ha hb hab p hp hq
    obtain ⟨_, _, _, rfl⟩ := mem_rowPlaces.1 hp
    obtain ⟨_, _, _, e⟩ := mem_rowPlaces.1 hq
    have ha := List.mem_range.1 ha
    have hb := List.mem_range.1 hb
    exact hab (wrapRow_inj (by omega) (by omega) (Prod.ext_iff.1 e).1)

/-- Everything a draw of at most 32 rows does to the framebuffer, and its hit flag. -/
theorem State.drawSprite_spec (s : State) (x0 y0 : Byte) {n : Nat} (hn : n ≤ 32) :
    (∀ r c, (s.drawSprite x0 y0 n).fb.pixel r c =
      if (r, c) ∈ s.spritePlaces x0 y0 n then !s.fb.pixel r c else s.fb.pixel r c) ∧
    ((s.drawSprite x0 y0 n).hit = true ↔ ∃ p ∈ s.spritePlaces x0 y0 n, s.fb.pixel p.1 p.2 = true) := by
  rw [State.drawSprite_eq_plots]
  have h := Canvas.plots_spec _ (s.nodup_spritePlaces x0 y0 hn) ⟨s.fb, false⟩
  exact ⟨h.1, by simpa using h.2⟩

end Sys2Proof.Machine
end

