-- ==== Sys2Proof/Laws/Ops.lean ====
section
/-! SUPPORT. One lemma per shared operation that says everything it can do: the stack, the blocks, the timer loop.
Callers cite these and do not unfold the operation. -/

namespace Sys2Proof.Machine

/-! ## Call stack (10_state.md R14) -/

/-- A push on a stack that is not full. -/
theorem State.push_of_lt {s : State} (w : Word) (h : s.sp.val < 16) :
    s.push w = some { s with stk := s.stk.set s.sp.val w h, sp := ⟨s.sp.val + 1, Nat.succ_lt_succ h⟩ } := by
  simp [State.push, h]

/-- A push on a full stack. -/
theorem State.push_full {s : State} (w : Word) (h : ¬ s.sp.val < 16) : s.push w = none := by
  simp [State.push, h]

/-- A pop from an empty stack. -/
theorem State.pop_empty {s : State} (h : s.sp.val = 0) : s.pop = none := by
  obtain ⟨n, hn⟩ : ∃ n, s.sp = n := ⟨_, rfl⟩
  unfold State.pop
  rw [hn] at h ⊢
  obtain ⟨n, h17⟩ := n
  simp only at h
  subst h
  rfl

/-- A pop from a stack with `n + 1` entries. -/
theorem State.pop_of_eq {s : State} {n : Nat} (hn : n + 1 < 17) (h : s.sp = ⟨n + 1, hn⟩) :
    s.pop = some (s.stk[n]'(Nat.lt_of_succ_lt_succ hn), { s with sp := ⟨n, Nat.lt_of_succ_lt hn⟩ }) := by
  unfold State.pop
  rw [h]

/-! ## Register blocks (42_index_memory.md R124, R125) -/

/-- A block load changes the register file only. -/
theorem State.loadBlock_eq (s : State) (n : Nat) : s.loadBlock n = { s with v := (s.loadBlock n).v } := by
  suffices h : ∀ (l : List Nat) (t : State) (f : Nat → Byte),
      l.foldl (fun t k => t.setReg (blockReg k) (f k)) t =
        { t with v := (l.foldl (fun t k => t.setReg (blockReg k) (f k)) t).v } from h _ _ _
  intro l
  induction l with
  | nil => intros; rfl
  | cons k rest ih =>
    intro t f
    rw [List.foldl_cons, ih]
    rfl

/-- Every register after a block load of `n ≤ 16` registers. -/
theorem State.reg_loadBlock (s : State) {n : Nat} (hn : n ≤ 16) (k : RegIx) :
    (s.loadBlock n).reg k = if k.toNat < n then Memory.read s.mem (s.dataAddr k.toNat) else s.reg k := by
  unfold State.loadBlock
  induction n with
  | zero => simp
  | succ n ih =>
    rw [List.range_succ, List.foldl_append, List.foldl_cons, List.foldl_nil, State.reg_setReg, ih (by omega)]
    have hb : (blockReg n).toNat = n := by
      simp only [blockReg, BitVec.toNat_ofNat]
      exact Nat.mod_eq_of_lt (by omega)
    by_cases hk : k = blockReg n
    · have e : k.toNat = n := hk ▸ hb
      simp [hk, hb]
    · have e : k.toNat ≠ n := fun e => hk (BitVec.eq_of_toNat_eq (e.trans hb.symm))
      by_cases hlt : k.toNat < n
      · simp [hk, hlt, Nat.lt_succ_of_lt hlt]
      · have : ¬ k.toNat < n + 1 := by omega
        simp [hk, hlt, this]

/-- The register number of a block entry. -/
theorem toNat_blockReg {k : Nat} (h : k < 16) : (blockReg k).toNat = k := by
  simp only [blockReg, BitVec.toNat_ofNat]
  exact Nat.mod_eq_of_lt (by omega)

@[simp] theorem blockReg_toNat (x : RegIx) : blockReg x.toNat = x := by
  simp [blockReg]

/-- Every byte of memory after a block store that fits in memory. -/
theorem State.read_storeBlock (s : State) {n : Nat} (h : s.i.toNat + n ≤ memSize) (b : Nat) :
    Memory.read (s.storeBlock n).mem b =
      if s.i.toNat ≤ b ∧ b < s.i.toNat + n then s.reg (blockReg (b - s.i.toNat)) else Memory.read s.mem b :=
  Memory.read_foldl_write s.mem n s.i.toNat (fun k => s.reg (blockReg k)) h b

/-- The range check as a fact about numbers (20_memory.md R47). -/
theorem State.dataInRange_iff (s : State) (n : Nat) :
    s.dataInRange n = true ↔ n = 0 ∨ s.i.toNat + n - 1 ≤ 0xFFF := by
  unfold State.dataInRange State.dataAddr
  cases n with
  | zero => simp
  | succ n => simp

/-! ## The timer loop (60_exceptions.md R163, R164) -/

/-- A tick takes one from each timer, floored at 0. -/
theorem State.timerTick_dt_toNat (s : State) : s.timerTick.dt.toNat = s.dt.toNat - 1 := by
  rw [State.timerTick_dt]
  split
  · next h => rw [h]; rfl
  · next h =>
    have : s.dt.toNat ≠ 0 := fun e => h (BitVec.eq_of_toNat_eq e)
    have := s.dt.isLt
    have one : (1 : Byte).toNat = 1 := rfl
    rw [BitVec.toNat_sub, one]
    omega

/-- A tick takes one from each timer, floored at 0. -/
theorem State.timerTick_st_toNat (s : State) : s.timerTick.st.toNat = s.st.toNat - 1 := by
  rw [State.timerTick_st]
  split
  · next h => rw [h]; rfl
  · next h =>
    have : s.st.toNat ≠ 0 := fun e => h (BitVec.eq_of_toNat_eq e)
    have := s.st.isLt
    have one : (1 : Byte).toNat = 1 := rfl
    rw [BitVec.toNat_sub, one]
    omega

/-- The timer loop changes the two timers and the timer debt only. -/
theorem State.timerLoop_eq (s : State) (p : Params) (n : Nat) :
    s.timerLoop p n = { s with
      dt := (s.timerLoop p n).dt, st := (s.timerLoop p n).st, accTmr := s.accTmr - n * p.timebaseHz } := by
  induction n generalizing s with
  | zero => simp [State.timerLoop]
  | succ n ih =>
    have h : s.timerLoop p (n + 1) =
        ({ s with accTmr := s.accTmr - p.timebaseHz } : State).timerTick.timerLoop p n := rfl
    rw [h, ih]
    have e : s.accTmr - p.timebaseHz - n * p.timebaseHz = s.accTmr - (n + 1) * p.timebaseHz := by
      rw [Nat.sub_sub, Nat.add_mul, Nat.one_mul, Nat.add_comm]
    simp only [State.timerTick, e]

end Sys2Proof.Machine
end

