-- ==== Sys2Proof/Laws/PerInstr.lean ====
section
/-! SUPPORT. One lemma per constructor of `Instr`: the encoded word matches its own row of the opcode map, mask and match as
spec/30_encoding.md R64 prints them. -/

namespace Sys2Proof.Laws.RowMatch

/-- The mask of the instruction's row (R64). -/
def mask (i : Instr) : Word :=
  match i with
  | .sys _ => 0xF000
  | .cls => 0xFFFF
  | .ret => 0xFFFF
  | .jp _ => 0xF000
  | .call _ => 0xF000
  | .seVxKk _ _ => 0xF000
  | .sneVxKk _ _ => 0xF000
  | .seVxVy _ _ => 0xF00F
  | .ldVxKk _ _ => 0xF000
  | .addVxKk _ _ => 0xF000
  | .ldVxVy _ _ => 0xF00F
  | .orVxVy _ _ => 0xF00F
  | .andVxVy _ _ => 0xF00F
  | .xorVxVy _ _ => 0xF00F
  | .addVxVy _ _ => 0xF00F
  | .subVxVy _ _ => 0xF00F
  | .shrVx _ _ => 0xF00F
  | .subnVxVy _ _ => 0xF00F
  | .shlVx _ _ => 0xF00F
  | .sneVxVy _ _ => 0xF00F
  | .ldI _ => 0xF000
  | .jpV0 _ => 0xF000
  | .rnd _ _ => 0xF000
  | .drw _ _ _ => 0xF000
  | .skp _ => 0xF0FF
  | .sknp _ => 0xF0FF
  | .ldVxDt _ => 0xF0FF
  | .ldVxK _ => 0xF0FF
  | .ldDtVx _ => 0xF0FF
  | .ldStVx _ => 0xF0FF
  | .addIVx _ => 0xF0FF
  | .ldFVx _ => 0xF0FF
  | .ldBVx _ => 0xF0FF
  | .ldMemVx _ => 0xF0FF
  | .ldVxMem _ => 0xF0FF

/-- The match of the instruction's row (R64). -/
def pattern (i : Instr) : Word :=
  match i with
  | .sys _ => 0x0000
  | .cls => 0x00E0
  | .ret => 0x00EE
  | .jp _ => 0x1000
  | .call _ => 0x2000
  | .seVxKk _ _ => 0x3000
  | .sneVxKk _ _ => 0x4000
  | .seVxVy _ _ => 0x5000
  | .ldVxKk _ _ => 0x6000
  | .addVxKk _ _ => 0x7000
  | .ldVxVy _ _ => 0x8000
  | .orVxVy _ _ => 0x8001
  | .andVxVy _ _ => 0x8002
  | .xorVxVy _ _ => 0x8003
  | .addVxVy _ _ => 0x8004
  | .subVxVy _ _ => 0x8005
  | .shrVx _ _ => 0x8006
  | .subnVxVy _ _ => 0x8007
  | .shlVx _ _ => 0x800E
  | .sneVxVy _ _ => 0x9000
  | .ldI _ => 0xA000
  | .jpV0 _ => 0xB000
  | .rnd _ _ => 0xC000
  | .drw _ _ _ => 0xD000
  | .skp _ => 0xE09E
  | .sknp _ => 0xE0A1
  | .ldVxDt _ => 0xF007
  | .ldVxK _ => 0xF00A
  | .ldDtVx _ => 0xF015
  | .ldStVx _ => 0xF018
  | .addIVx _ => 0xF01E
  | .ldFVx _ => 0xF029
  | .ldBVx _ => 0xF033
  | .ldMemVx _ => 0xF055
  | .ldVxMem _ => 0xF065

/-- The word of `i` is matched by the row of `i`. -/
def Statement (i : Instr) : Prop := encode i &&& mask i = pattern i

/-- Masking the class of a word in format NNN. -/
theorem formatNNN_and (c : Nibble) (nnn : Addr) : formatNNN c nnn &&& 0xF000 = formatNNN c 0 := by
  have h : (0xF000 : Word) = (0xF : Nibble) ++ (0 : Addr) := by decide
  rw [h]
  exact (BitVec.and_append).trans (by
    rw [show c &&& (0xF : Nibble) = c by revert c; decide,
      show nnn &&& (0 : Addr) = 0 from BitVec.and_zero]; rfl)

/-- Masking the class of a word in format XKK. -/
theorem formatXKK_and_class (c : Nibble) (x : RegIx) (kk : Byte) :
    formatXKK c x kk &&& 0xF000 = formatXKK c 0 0 :=
  (formatNNN_and c (x ++ kk)).trans (by revert c; decide)

/-- Masking the class and the sub-opcode of a word in format XSUB. -/
theorem formatXKK_and (c : Nibble) (x : RegIx) (kk : Byte) :
    formatXKK c x kk &&& 0xF0FF = formatXKK c 0 kk := by
  have h : (0xF0FF : Word) = (0xF : Nibble) ++ ((0 : RegIx) ++ (0xFF : Byte)) := by decide
  rw [h]
  refine (BitVec.and_append).trans ?_
  rw [BitVec.and_append]
  rw [show c &&& (0xF : Nibble) = c by revert c; decide,
    show x &&& (0 : RegIx) = 0 from BitVec.and_zero,
    show kk &&& (0xFF : Byte) = kk by revert kk; decide]
  rfl

/-- Masking the class and the sub-opcode of a word in format XYN. -/
theorem formatXYN_and (c : Nibble) (x y : RegIx) (n : Nibble) :
    formatXYN c x y n &&& 0xF00F = formatXYN c 0 0 n := by
  have h : (0xF00F : Word) = (0xF : Nibble) ++ ((0 : RegIx) ++ ((0 : RegIx) ++ (0xF : Nibble))) := by decide
  rw [h]
  refine (BitVec.and_append).trans ?_
  rw [BitVec.and_append, BitVec.and_append]
  rw [show c &&& (0xF : Nibble) = c by revert c; decide,
    show x &&& (0 : RegIx) = 0 from BitVec.and_zero, show y &&& (0 : RegIx) = 0 from BitVec.and_zero,
    show n &&& (0xF : Nibble) = n by revert n; decide]
  rfl

/-- Masking the class of a word in format XYN. -/
theorem formatXYN_and_class (c : Nibble) (x y : RegIx) (n : Nibble) :
    formatXYN c x y n &&& 0xF000 = formatXYN c 0 0 0 :=
  (formatNNN_and c (x ++ (y ++ n))).trans (by revert c; decide)

theorem sys (nnn : Addr) : Statement (.sys nnn) := 
  (formatNNN_and 0x0 nnn).trans (by simp only [pattern]; decide)

theorem cls : Statement (.cls) := 
  by unfold Statement; decide

theorem ret : Statement (.ret) := 
  by unfold Statement; decide

theorem jp (nnn : Addr) : Statement (.jp nnn) := 
  (formatNNN_and 0x1 nnn).trans (by simp only [pattern]; decide)

theorem call (nnn : Addr) : Statement (.call nnn) := 
  (formatNNN_and 0x2 nnn).trans (by simp only [pattern]; decide)

theorem seVxKk (x : RegIx) (kk : Byte) : Statement (.seVxKk x kk) := 
  (formatXKK_and_class 0x3 x kk).trans (by simp only [pattern]; decide)

theorem sneVxKk (x : RegIx) (kk : Byte) : Statement (.sneVxKk x kk) := 
  (formatXKK_and_class 0x4 x kk).trans (by simp only [pattern]; decide)

theorem seVxVy (x y : RegIx) : Statement (.seVxVy x y) := 
  (formatXYN_and 0x5 x y 0x0).trans (by simp only [pattern]; decide)

theorem ldVxKk (x : RegIx) (kk : Byte) : Statement (.ldVxKk x kk) := 
  (formatXKK_and_class 0x6 x kk).trans (by simp only [pattern]; decide)

theorem addVxKk (x : RegIx) (kk : Byte) : Statement (.addVxKk x kk) := 
  (formatXKK_and_class 0x7 x kk).trans (by simp only [pattern]; decide)

theorem ldVxVy (x y : RegIx) : Statement (.ldVxVy x y) := 
  (formatXYN_and 0x8 x y 0x0).trans (by simp only [pattern]; decide)

theorem orVxVy (x y : RegIx) : Statement (.orVxVy x y) := 
  (formatXYN_and 0x8 x y 0x1).trans (by simp only [pattern]; decide)

theorem andVxVy (x y : RegIx) : Statement (.andVxVy x y) := 
  (formatXYN_and 0x8 x y 0x2).trans (by simp only [pattern]; decide)

theorem xorVxVy (x y : RegIx) : Statement (.xorVxVy x y) := 
  (formatXYN_and 0x8 x y 0x3).trans (by simp only [pattern]; decide)

theorem addVxVy (x y : RegIx) : Statement (.addVxVy x y) := 
  (formatXYN_and 0x8 x y 0x4).trans (by simp only [pattern]; decide)

theorem subVxVy (x y : RegIx) : Statement (.subVxVy x y) := 
  (formatXYN_and 0x8 x y 0x5).trans (by simp only [pattern]; decide)

theorem shrVx (x y : RegIx) : Statement (.shrVx x y) := 
  (formatXYN_and 0x8 x y 0x6).trans (by simp only [pattern]; decide)

theorem subnVxVy (x y : RegIx) : Statement (.subnVxVy x y) := 
  (formatXYN_and 0x8 x y 0x7).trans (by simp only [pattern]; decide)

theorem shlVx (x y : RegIx) : Statement (.shlVx x y) := 
  (formatXYN_and 0x8 x y 0xE).trans (by simp only [pattern]; decide)

theorem sneVxVy (x y : RegIx) : Statement (.sneVxVy x y) := 
  (formatXYN_and 0x9 x y 0x0).trans (by simp only [pattern]; decide)

theorem ldI (nnn : Addr) : Statement (.ldI nnn) := 
  (formatNNN_and 0xA nnn).trans (by simp only [pattern]; decide)

theorem jpV0 (nnn : Addr) : Statement (.jpV0 nnn) := 
  (formatNNN_and 0xB nnn).trans (by simp only [pattern]; decide)

theorem rnd (x : RegIx) (kk : Byte) : Statement (.rnd x kk) := 
  (formatXKK_and_class 0xC x kk).trans (by simp only [pattern]; decide)

theorem drw (x y : RegIx) (n : Nibble) : Statement (.drw x y n) := 
  (formatXYN_and_class 0xD x y n).trans (by simp only [pattern]; decide)

theorem skp (x : RegIx) : Statement (.skp x) := 
  (formatXKK_and 0xE x 0x9E).trans (by simp only [pattern]; decide)

theorem sknp (x : RegIx) : Statement (.sknp x) := 
  (formatXKK_and 0xE x 0xA1).trans (by simp only [pattern]; decide)

theorem ldVxDt (x : RegIx) : Statement (.ldVxDt x) := 
  (formatXKK_and 0xF x 0x07).trans (by simp only [pattern]; decide)

theorem ldVxK (x : RegIx) : Statement (.ldVxK x) := 
  (formatXKK_and 0xF x 0x0A).trans (by simp only [pattern]; decide)

theorem ldDtVx (x : RegIx) : Statement (.ldDtVx x) := 
  (formatXKK_and 0xF x 0x15).trans (by simp only [pattern]; decide)

theorem ldStVx (x : RegIx) : Statement (.ldStVx x) := 
  (formatXKK_and 0xF x 0x18).trans (by simp only [pattern]; decide)

theorem addIVx (x : RegIx) : Statement (.addIVx x) := 
  (formatXKK_and 0xF x 0x1E).trans (by simp only [pattern]; decide)

theorem ldFVx (x : RegIx) : Statement (.ldFVx x) := 
  (formatXKK_and 0xF x 0x29).trans (by simp only [pattern]; decide)

theorem ldBVx (x : RegIx) : Statement (.ldBVx x) := 
  (formatXKK_and 0xF x 0x33).trans (by simp only [pattern]; decide)

theorem ldMemVx (x : RegIx) : Statement (.ldMemVx x) := 
  (formatXKK_and 0xF x 0x55).trans (by simp only [pattern]; decide)

theorem ldVxMem (x : RegIx) : Statement (.ldVxMem x) := 
  (formatXKK_and 0xF x 0x65).trans (by simp only [pattern]; decide)

end Sys2Proof.Laws.RowMatch
end

