-- ==== Sys2Proof/Laws/Step.lean ====
section
/-! SUPPORT. What a step can do, said once (spec/40_step_and_control.md R81): the five outcomes of `State.fetch`, and from them
the cases of `step`. Later proofs cite `step_cases` and do not unfold `step`. -/

namespace Sys2Proof.Machine

@[simp] theorem pcInRange_iff (pc : Word) : pcInRange pc = true ↔ 0x200 ≤ pc.toNat ∧ pc.toNat ≤ 0xFFE := by
  simp [pcInRange]

/-- Decoding the fetched bytes is decoding the fetched word. -/
theorem State.decode_fetchBytes (s : State) :
    decode s.fetchBytes =
      match decodeWord s.fetchOp with
      | .ok i => .ok (i, [])
      | .error e => .error e := rfl

/-- Only the key wait is a key wait. -/
theorem Instr.isKeyWait_iff (i : Instr) : Instr.isKeyWait i = true ↔ ∃ x, i = .ldVxK x := by
  cases i <;> simp [Instr.isKeyWait]

/-- The step in Halted (R80). -/
theorem step_halted {s : State} (h : s.mode = .halted) : step s = .fault (.halted s.fault) := by
  simp [step, State.fetch, h]

/-- The step with `PC` outside the window (R82). -/
theorem step_fatal {s : State} (h : s.mode ≠ .halted) (hpc : ¬ (0x200 ≤ s.pc.toNat ∧ s.pc.toNat ≤ 0xFFE)) :
    step s = .next (s.raiseFatal .pcRange) := by
  have : pcInRange s.pc = false := by
    rw [Bool.eq_false_iff, Ne, pcInRange_iff]; exact hpc
  simp [step, State.fetch, h, this]

/-- The step with `PC` inside the window is decided by the fetched word (R81 items 2 to 5). -/
theorem step_in_window {s : State} (h : s.mode ≠ .halted) (hpc : 0x200 ≤ s.pc.toNat ∧ s.pc.toNat ≤ 0xFFE) :
    step s =
      match decodeWord s.fetchOp with
      | .ok i =>
        if s.mode = .waitingForKeypress ∧ Instr.isKeyWait i = false then .refused (.waitingOnOtherWord s.fetchOp)
        else exec i s
      | .error _ =>
        if s.mode = .waitingForKeypress then .refused (.waitingOnOtherWord s.fetchOp)
        else .next (s.nopAnomaly .unknownOpcode s.fetchOp) := by
  have hp : pcInRange s.pc = true := (pcInRange_iff s.pc).mpr hpc
  unfold step State.fetch State.decodeFetched
  rw [if_neg h, if_pos hp, State.decode_fetchBytes]
  cases decodeWord s.fetchOp with
  | ok i =>
    by_cases hw : s.mode = .waitingForKeypress ∧ Instr.isKeyWait i = false
    · simp only [if_pos hw]
    · simp only [if_neg hw]
  | error e =>
    by_cases hw : s.mode = .waitingForKeypress
    · simp only [if_pos hw]
    · simp only [if_neg hw]

/-- Everything a step can do: fault in Halted, the fatal entry, an instruction, the reported no-op of an unrecognised word,
or the refusal of another word while waiting. -/
theorem step_cases (s : State) :
    (s.mode = .halted ∧ step s = .fault (.halted s.fault)) ∨
    (s.mode ≠ .halted ∧ ¬ (0x200 ≤ s.pc.toNat ∧ s.pc.toNat ≤ 0xFFE) ∧ step s = .next (s.raiseFatal .pcRange)) ∨
    (∃ i, s.mode ≠ .halted ∧ (0x200 ≤ s.pc.toNat ∧ s.pc.toNat ≤ 0xFFE) ∧ decodeWord s.fetchOp = .ok i ∧
      (s.mode = .running ∨ ∃ x, i = .ldVxK x) ∧ step s = exec i s) ∨
    (s.mode = .running ∧ (0x200 ≤ s.pc.toNat ∧ s.pc.toNat ≤ 0xFFE) ∧
      decodeWord s.fetchOp = .error (.unrecognised s.fetchOp) ∧
      step s = .next (s.nopAnomaly .unknownOpcode s.fetchOp)) ∨
    (s.mode = .waitingForKeypress ∧ (0x200 ≤ s.pc.toNat ∧ s.pc.toNat ≤ 0xFFE) ∧
      (∀ x, decodeWord s.fetchOp ≠ .ok (.ldVxK x)) ∧ step s = .refused (.waitingOnOtherWord s.fetchOp)) := by
  by_cases hm : s.mode = .halted
  · exact .inl ⟨hm, step_halted hm⟩
  by_cases hpc : 0x200 ≤ s.pc.toNat ∧ s.pc.toNat ≤ 0xFFE
  swap
  · exact .inr (.inl ⟨hm, hpc, step_fatal hm hpc⟩)
  have hs := step_in_window hm hpc
  have hrun : s.mode ≠ .waitingForKeypress → s.mode = .running := by
    intro hw
    cases e : s.mode with
    | running => rfl
    | waitingForKeypress => exact absurd e hw
    | halted => exact absurd e hm
  cases hd : decodeWord s.fetchOp with
  | ok i =>
    rw [hd] at hs
    by_cases hw : s.mode = .waitingForKeypress ∧ Instr.isKeyWait i = false
    · refine .inr (.inr (.inr (.inr ⟨hw.1, hpc, ?_, by simpa [hw] using hs⟩)))
      intro x e
      cases e
      simp [Instr.isKeyWait] at hw
    · refine .inr (.inr (.inl ⟨i, hm, hpc, rfl, ?_, by simpa [hw] using hs⟩))
      by_cases hw' : s.mode = .waitingForKeypress
      · exact .inr ((Instr.isKeyWait_iff i).mp (by simpa [hw'] using hw))
      · exact .inl (hrun hw')
  | error e =>
    rw [hd] at hs
    by_cases hw : s.mode = .waitingForKeypress
    · exact .inr (.inr (.inr (.inr ⟨hw, hpc, by simp, by simpa [hw] using hs⟩)))
    · exact .inr (.inr (.inr (.inl ⟨hrun hw, hpc, by rw [decodeWord_error hd], by simpa [hw] using hs⟩)))

end Sys2Proof.Machine
end

