-- ==== Sys2Proof/Tests/Slice0.lean ====
section
/-! SUPPORT. The model's own tests: the well-formedness smoke test, every constructor's decoding from a word written out from
spec/30_encoding.md R64, one-step tests with the expected results of spec/95_test_vectors.md (the vector's name stands in each
docstring), host operations, and a witness for every statement that has hypotheses. -/

namespace Sys2Proof.Tests

open Sys2Proof Sys2Proof.Machine Sys2Proof.Safety

/-! ## Helpers -/

/-- One step with the word `w` placed at `PC` answers a next state that passes the check. -/
def stepPasses (s : State) (w : Nat) (check : State → Bool) : Bool :=
  match step (s.withFetchWord 16 w) with
  | .next t => check t
  | _ => false

/-- The reset state at another `PC`. -/
def atPc (pc : Word) : State := { State.reset with pc := pc }

/-- Registers written one after another. -/
def withRegs (l : List (RegIx × Byte)) (s : State) : State := l.foldl (fun t p => t.setReg p.1 p.2) s

/-- `I` and the bytes from `I` up. -/
def withData (i : Word) (bytes : List Byte) (s : State) : State :=
  { s with i := i, mem := Memory.writeBytes s.mem i.toNat bytes }

/-- One pixel turned on, the frame clean. -/
def withPixel (r : Fin 32) (c : Fin 64) (s : State) : State :=
  { s with fb := s.fb.setPixel r c true, dirty := false }

/-- One event bit set while waiting at 0x210. -/
def waiting (k : Nibble) : State :=
  { atPc 0x210 with mode := .waitingForKeypress, keyEvt := KeyBits.put KeyBits.clear k true }

/-- The stack depth and one entry. -/
def withStack (sp : Fin 17) (n : Fin 16) (w : Word) (s : State) : State := { s with sp := sp, stk := s.stk.set n.val w }

/-- `CPU_HZ_CFG` = 500, `TIMEBASE_HZ` = 1000 (vector C1). -/
def p500 : Params where
  cpuHzCfg := 500
  timebaseHz := 1000
  displayTag := 0xA5
  debugTag := 0x5A
  cpuHzCfg_pos := by decide
  timebaseHz_pos := by decide
  tags_ne := by decide

/-! ## Well-formedness -/

/-- R64 row 1: the operands of `SYS` that are the words of `CLS` and `RET` are refused, their neighbours are not. -/
theorem test_wf_refuses_sys_words :
    (Instr.sys 0x0E0).wf = false ∧ (Instr.sys 0x0EE).wf = false ∧ (Instr.sys 0x0E1).wf = true ∧
      (Instr.sys 0x000).wf = true := by decide

/-! ## Decoding, one word or more for every constructor -/

/-- R64 rows 1 to 5, 22; 2.2 of the test vectors. -/
theorem test_decode_jumps :
    decodeTableWord 16 0x0123 = some (.sys 0x123) ∧ decodeTableWord 16 0x00E1 = some (.sys 0x0E1) ∧
    decodeTableWord 16 0x0EE0 = some (.sys 0xEE0) ∧ decodeTableWord 16 0x0000 = some (.sys 0x000) ∧
    decodeTableWord 16 0x00EE = some .ret ∧ decodeTableWord 16 0x1234 = some (.jp 0x234) ∧
    decodeTableWord 16 0x220A = some (.call 0x20A) ∧ decodeTableWord 16 0xB300 = some (.jpV0 0x300) := by decide

/-- R64 rows 6 to 8, 20, 25, 26. -/
theorem test_decode_skips :
    decodeTableWord 16 0x3A7F = some (.seVxKk 0xA 0x7F) ∧ decodeTableWord 16 0x4307 = some (.sneVxKk 0x3 0x07) ∧
    decodeTableWord 16 0x5AB0 = some (.seVxVy 0xA 0xB) ∧ decodeTableWord 16 0x9AB0 = some (.sneVxVy 0xA 0xB) ∧
    decodeTableWord 16 0xE19E = some (.skp 0x1) ∧ decodeTableWord 16 0xE1A1 = some (.sknp 0x1) := by decide

/-- R64 rows 9, 10, 23. -/
theorem test_decode_immediates :
    decodeTableWord 16 0x607B = some (.ldVxKk 0x0 0x7B) ∧ decodeTableWord 16 0x70FF = some (.addVxKk 0x0 0xFF) ∧
    decodeTableWord 16 0xC10F = some (.rnd 0x1 0x0F) := by decide

/-- R64 rows 11 to 19. -/
theorem test_decode_alu :
    decodeTableWord 16 0x8AB0 = some (.ldVxVy 0xA 0xB) ∧ decodeTableWord 16 0x8AB1 = some (.orVxVy 0xA 0xB) ∧
    decodeTableWord 16 0x8AB2 = some (.andVxVy 0xA 0xB) ∧ decodeTableWord 16 0x8AB3 = some (.xorVxVy 0xA 0xB) ∧
    decodeTableWord 16 0x8AB4 = some (.addVxVy 0xA 0xB) ∧ decodeTableWord 16 0x8AB5 = some (.subVxVy 0xA 0xB) ∧
    decodeTableWord 16 0x8AB6 = some (.shrVx 0xA 0xB) ∧ decodeTableWord 16 0x8AB7 = some (.subnVxVy 0xA 0xB) ∧
    decodeTableWord 16 0x8ABE = some (.shlVx 0xA 0xB) := by decide

/-- R64 rows 2, 24. -/
theorem test_decode_display :
    decodeTableWord 16 0x00E0 = some .cls ∧ decodeTableWord 16 0xD12F = some (.drw 0x1 0x2 0xF) := by decide

/-- R64 rows 21, 31 to 35. -/
theorem test_decode_index_memory :
    decodeTableWord 16 0xA300 = some (.ldI 0x300) ∧ decodeTableWord 16 0xF31E = some (.addIVx 0x3) ∧
    decodeTableWord 16 0xF329 = some (.ldFVx 0x3) ∧ decodeTableWord 16 0xF333 = some (.ldBVx 0x3) ∧
    decodeTableWord 16 0xF355 = some (.ldMemVx 0x3) ∧ decodeTableWord 16 0xF365 = some (.ldVxMem 0x3) := by decide

/-- R64 rows 27 to 30. -/
theorem test_decode_keys_timers :
    decodeTableWord 16 0xF307 = some (.ldVxDt 0x3) ∧ decodeTableWord 16 0xF30A = some (.ldVxK 0x3) ∧
    decodeTableWord 16 0xF315 = some (.ldDtVx 0x3) ∧ decodeTableWord 16 0xF318 = some (.ldStVx 0x3) := by decide

/-- R66: the unrecognised words of 2.2 of the test vectors are rejected by name. -/
theorem test_decode_unrecognised :
    [0x5AB1#16, 0x8AB8, 0x9ABF, 0xE19F, 0xE100, 0xF300, 0xF375, 0xF385, 0xF3FF].all (fun op =>
      match decodeWord op with
      | .error (.unrecognised w) => w == op
      | _ => false) = true := by decide

/-- R62, R64: words written by hand against the encoder. -/
theorem test_encode_words :
    encode (.drw 0x1 0x2 0xF) = 0xD12F ∧ encode (.sys 0x123) = 0x0123 ∧ encode (.shlVx 0x1 0x2) = 0x812E ∧
    encode (.ldVxMem 0xF) = 0xFF65 ∧ encodeBytes (.jp 0x234) = [0x12, 0x34] := by decide

/-! ## The step (vectors S1 to S8) -/

/-- S2, S5: the fatal entry keeps `PC` and records it. -/
theorem test_step_fatal :
    stepPasses (atPc 0x1FF) 0x6001 (fun t => t.mode == .halted && t.fault == some ⟨.pcRange, 0x1FF⟩ && t.pc == 0x1FF)
      && stepPasses (atPc 0x1000) 0x6001 (fun t => t.mode == .halted && t.fault == some ⟨.pcRange, 0x1000⟩
        && t.reg 0 == 0) = true := by decide

/-- S6, S8: an odd `PC` is executed, and so is the last one of the window. -/
theorem test_step_window :
    stepPasses (atPc 0x201) 0x6001 (fun t => t.reg 0 == 1 && t.pc == 0x203)
      && stepPasses (atPc 0xFFE) 0x6001 (fun t => t.reg 0 == 1 && t.pc == 0x1000 && t.mode == .running) = true := by
  decide

/-- X22, X26, K8: an unrecognised word reports `PC` and the word, and advances. -/
theorem test_step_unrecognised :
    [0x5121, 0x912F, 0xE29F, 0x8128, 0xF175].all (fun op => stepPasses (atPc 0x210) op (fun t =>
      t.pc == 0x212 && t.reports == [.anomaly .unknownOpcode 0x210 (BitVec.ofNat 16 op)])) = true := by decide

/-! ## Control transfer -/

/-- X2. -/
theorem test_sys_reports :
    stepPasses (atPc 0x300) 0x0123 (fun t =>
      t.pc == 0x302 && t.reports == [.anomaly .unknownOpcode 0x300 0x0123]) = true := by decide

/-- X3: the return lands two above the stacked address; the entry stays. -/
theorem test_ret_pops :
    stepPasses (withStack 1 0 0x204 (atPc 0x20C)) 0x00EE (fun t =>
      t.pc == 0x206 && t.sp == 0 && t.stk[0] == 0x204) = true := by decide

/-- X4. -/
theorem test_ret_underflow :
    stepPasses (atPc 0x20C) 0x00EE (fun t =>
      t.pc == 0x20E && t.sp == 0 && t.reports == [.anomaly .stackUnderflow 0x20C 0x00EE]) = true := by decide

/-- X6, X9: the target is not checked by the jump. -/
theorem test_jp :
    stepPasses (atPc 0x20A) 0x1204 (fun t => t.pc == 0x204)
      && stepPasses (atPc 0x20A) 0x1FFF (fun t => t.pc == 0xFFF && t.mode == .running) = true := by decide

/-- X12: the sixteenth call succeeds. -/
theorem test_call_sixteenth :
    stepPasses (withStack 15 14 0x204 (atPc 0x300)) 0x2400 (fun t =>
      t.pc == 0x400 && t.sp == 16 && t.stk[15] == 0x300 && t.stk[14] == 0x204) = true := by decide

/-- X13: the seventeenth is the reported no-op. -/
theorem test_call_overflow :
    stepPasses (withStack 16 15 0x204 (atPc 0x300)) 0x2400 (fun t =>
      t.pc == 0x302 && t.sp == 16 && t.stk[15] == 0x204 && t.reports == [.anomaly .stackOverflow 0x300 0x2400])
      = true := by decide

/-- X15, X16. -/
theorem test_se_immediate :
    stepPasses (withRegs [(0, 1)] (atPc 0x208)) 0x3000 (fun t => t.pc == 0x20A)
      && stepPasses (atPc 0xFFE) 0x3000 (fun t => t.pc == 0x1002) = true := by decide

/-- X17, X18. -/
theorem test_sne_immediate :
    stepPasses (withRegs [(3, 7)] (atPc 0x300)) 0x4307 (fun t => t.pc == 0x302)
      && stepPasses (withRegs [(3, 8)] (atPc 0x300)) 0x4307 (fun t => t.pc == 0x304) = true := by decide

/-- X19, X20. -/
theorem test_se_registers :
    stepPasses (withRegs [(1, 0x55), (2, 0x55)] (atPc 0x210)) 0x5120 (fun t => t.pc == 0x214)
      && stepPasses (withRegs [(1, 0x55), (2, 0x54)] (atPc 0x210)) 0x5120 (fun t => t.pc == 0x212) = true := by decide

/-- X23, X24. -/
theorem test_sne_registers :
    stepPasses (withRegs [(1, 1), (2, 2)] (atPc 0x210)) 0x9120 (fun t => t.pc == 0x214)
      && stepPasses (withRegs [(1, 2), (2, 2)] (atPc 0x210)) 0x9120 (fun t => t.pc == 0x212) = true := by decide

/-- X28, X30: the sum is exact, and the register is `V0`. -/
theorem test_jp_v0 :
    stepPasses (withRegs [(0, 0xFF)] State.reset) 0xBFFF (fun t => t.pc == 0x10FE)
      && stepPasses (withRegs [(0, 2), (3, 0x40)] State.reset) 0xB300 (fun t => t.pc == 0x302) = true := by decide

/-! ## Registers and arithmetic -/

/-- A1, A2. -/
theorem test_ld_immediate :
    stepPasses State.reset 0x607B (fun t => t.reg 0 == 0x7B && t.pc == 0x202)
      && stepPasses (withRegs [(0xF, 1)] State.reset) 0x6F00 (fun t => t.reg 0xF == 0) = true := by decide

/-- A3, A5: no flag; `VF` is a plain destination. -/
theorem test_add_immediate :
    stepPasses (withRegs [(0, 5), (0xF, 1)] State.reset) 0x70FF (fun t => t.reg 0 == 4 && t.reg 0xF == 1)
      && stepPasses (withRegs [(0xF, 0xFE)] State.reset) 0x7F03 (fun t => t.reg 0xF == 1) = true := by decide

/-- A6. -/
theorem test_copy :
    stepPasses (withRegs [(2, 0x33), (0xF, 1)] State.reset) 0x8120 (fun t => t.reg 1 == 0x33 && t.reg 0xF == 1)
      = true := by decide

/-- A7: `VF` is kept. -/
theorem test_or :
    stepPasses (withRegs [(1, 0xF0), (2, 0x0F), (0xF, 1)] State.reset) 0x8121 (fun t =>
      t.reg 1 == 0xFF && t.reg 0xF == 1) = true := by decide

/-- A8: `VF` is kept. -/
theorem test_and :
    stepPasses (withRegs [(1, 0xF0), (2, 0x3C), (0xF, 1)] State.reset) 0x8122 (fun t =>
      t.reg 1 == 0x30 && t.reg 0xF == 1) = true := by decide

/-- A9: `VF` is kept. -/
theorem test_xor :
    stepPasses (withRegs [(1, 0xF0), (2, 0x3C), (0xF, 1)] State.reset) 0x8123 (fun t =>
      t.reg 1 == 0xCC && t.reg 0xF == 1) = true := by decide

/-- A11, A14. -/
theorem test_add_carry :
    stepPasses (withRegs [(1, 0xFF), (2, 1)] State.reset) 0x8124 (fun t => t.reg 1 == 0 && t.reg 0xF == 1)
      && stepPasses (withRegs [(1, 0xFF)] State.reset) 0x8124 (fun t => t.reg 1 == 0xFF && t.reg 0xF == 0)
      = true := by decide

/-- A16, A17: the flag replaces the sum in `VF`; the old `VF` is the operand. -/
theorem test_add_vf :
    stepPasses (withRegs [(0xF, 1), (2, 2)] State.reset) 0x8F24 (fun t => t.reg 0xF == 0)
      && stepPasses (withRegs [(1, 0x10), (0xF, 5)] State.reset) 0x81F4 (fun t => t.reg 1 == 0x15 && t.reg 0xF == 0)
      = true := by decide

/-- A18, A19. -/
theorem test_sub :
    stepPasses (withRegs [(1, 5), (2, 3)] State.reset) 0x8125 (fun t => t.reg 1 == 2 && t.reg 0xF == 1)
      && stepPasses (withRegs [(1, 3), (2, 5), (0xF, 1)] State.reset) 0x8125 (fun t =>
        t.reg 1 == 0xFE && t.reg 0xF == 0) = true := by decide

/-- A20, A21, A34, A35: equal operands, at both values of `SUB_EQ_FLAG`. -/
theorem test_sub_equal :
    subResult 7 7 = 0 ∧ flagByte (subFlag false 7 7) = 0 ∧ flagByte (subFlag true 7 7) = 1 ∧
      subFlag true 3 5 = false ∧ subFlag false 5 3 = true := by decide

/-- A28, A31: `V[y]` is not read; the bit out replaces the quotient in `VF`. -/
theorem test_shr :
    stepPasses (withRegs [(1, 5), (2, 0xF0)] State.reset) 0x8126 (fun t =>
      t.reg 1 == 2 && t.reg 0xF == 1 && t.reg 2 == 0xF0)
      && stepPasses (withRegs [(0xF, 2)] State.reset) 0x8F06 (fun t => t.reg 0xF == 0) = true := by decide

/-- A32, A33. -/
theorem test_subn :
    stepPasses (withRegs [(1, 3), (2, 5)] State.reset) 0x8127 (fun t => t.reg 1 == 2 && t.reg 0xF == 1)
      && stepPasses (withRegs [(1, 5), (2, 3), (0xF, 1)] State.reset) 0x8127 (fun t =>
        t.reg 1 == 0xFE && t.reg 0xF == 0) = true := by decide

/-- A38, A40. -/
theorem test_shl :
    stepPasses (withRegs [(1, 0x81), (2, 0x0F)] State.reset) 0x812E (fun t =>
      t.reg 1 == 2 && t.reg 0xF == 1 && t.reg 2 == 0x0F)
      && stepPasses (withRegs [(0xF, 0x40)] State.reset) 0x8F0E (fun t => t.reg 0xF == 0) = true := by decide

/-- A43: the draw stays a free byte; the next draw is another one. -/
theorem test_rnd_masked :
    ∃ t, step (State.reset.withFetchWord 16 0xC10F) = .next t ∧ t.reg 1 = Config.randByte 0 &&& 0x0F ∧ t.draws = 1 :=
  ⟨_, rfl, rfl, rfl⟩

/-! ## Index register and memory -/

/-- M1. -/
theorem test_ld_i :
    stepPasses (withData 0xFFFF [] State.reset) 0xA300 (fun t => t.i == 0x300) = true := by decide

/-- M3, M4. -/
theorem test_add_i :
    stepPasses (withRegs [(1, 5)] (withData 0x0FFE [] State.reset)) 0xF11E (fun t => t.i == 0x1003 && t.reg 0xF == 0)
      && stepPasses (withRegs [(1, 2)] (withData 0xFFFF [] State.reset)) 0xF11E (fun t => t.i == 0x0001)
      = true := by decide

/-- M6, M7. -/
theorem test_font_address :
    stepPasses (withRegs [(0, 0x0B)] State.reset) 0xF029 (fun t => t.i == 0x0037)
      && stepPasses (withRegs [(0, 0x1A)] State.reset) 0xF029 (fun t => t.i == 0x0032) = true := by decide

/-- M11. -/
theorem test_bcd :
    stepPasses (withRegs [(0, 255)] (withData 0x300 [9, 9, 9] State.reset)) 0xF033 (fun t =>
      Memory.read t.mem 0x300 == 2 && Memory.read t.mem 0x301 == 5 && Memory.read t.mem 0x302 == 5 && t.i == 0x300)
      = true := by decide

/-- M15. -/
theorem test_bcd_out_of_range :
    stepPasses (withRegs [(0, 123)] (withData 0xFFE [] State.reset)) 0xF033 (fun t =>
      Memory.read t.mem 0xFFE == 0 && t.reports == [.anomaly .dataAddrRange 0x200 0xF033] && t.pc == 0x202)
      = true := by decide

/-- M17. -/
theorem test_block_dump :
    stepPasses (withRegs [(0, 0xAA), (1, 0xBB), (2, 0xCC)] (withData 0x400 [] State.reset)) 0xF155 (fun t =>
      Memory.read t.mem 0x400 == 0xAA && Memory.read t.mem 0x401 == 0xBB && Memory.read t.mem 0x402 == 0
        && t.i == 0x400) = true := by decide

/-- M22: not even the byte in range is written. -/
theorem test_block_dump_out_of_range :
    stepPasses (withRegs [(0, 0xAA), (1, 0xBB)] (withData 0xFFF [] State.reset)) 0xF155 (fun t =>
      Memory.read t.mem 0xFFF == 0 && t.reports == [.anomaly .dataAddrRange 0x200 0xF155]) = true := by decide

/-- M23. -/
theorem test_block_load :
    stepPasses (withRegs [(3, 0x77)] (withData 0x300 [1, 2, 3, 4] State.reset)) 0xF265 (fun t =>
      t.reg 0 == 1 && t.reg 1 == 2 && t.reg 2 == 3 && t.reg 3 == 0x77 && t.i == 0x300) = true := by decide

/-- M24: glyph 0 of the font. -/
theorem test_block_load_font :
    stepPasses State.reset 0xF465 (fun t =>
      t.reg 0 == 0xF0 && t.reg 1 == 0x90 && t.reg 2 == 0x90 && t.reg 3 == 0x90 && t.reg 4 == 0xF0) = true := by decide

/-! ## Display -/

/-- D19: `VF` is kept, the frame becomes stale. -/
theorem test_cls :
    stepPasses (withRegs [(0xF, 1)] (withPixel 31 63 (withPixel 0 0 State.reset))) 0x00E0 (fun t =>
      t.fb.pixel 31 63 == false && t.fb.pixel 0 0 == false && t.reg 0xF == 1 && t.dirty) = true := by decide

/-- D3, D7: the start coordinates are reduced; a pixel turned off is a collision. -/
theorem test_draw :
    stepPasses (withRegs [(1, 70), (2, 33)] (withData 0x300 [0xC0] State.reset)) 0xD121 (fun t =>
      t.fb.pixel 1 6 && t.fb.pixel 1 7 && !t.fb.pixel 1 8 && t.reg 0xF == 0)
      && stepPasses (withData 0x300 [0xC0] (withPixel 0 1 State.reset)) 0xD121 (fun t =>
        t.fb.pixel 0 0 && !t.fb.pixel 0 1 && t.reg 0xF == 1 && t.dirty) = true := by decide

/-- D4, D11: rows wrap to the top; out of range nothing is drawn. -/
theorem test_draw_edges :
    stepPasses (withRegs [(1, 8), (2, 31)] (withData 0x300 [0x81, 0x7E] State.reset)) 0xD122 (fun t =>
      t.fb.pixel 31 8 && t.fb.pixel 31 15 && t.fb.pixel 0 9 && t.fb.pixel 0 14 && !t.fb.pixel 0 8)
      && stepPasses (withRegs [(0xF, 1)] (withPixel 5 5 (withData 0xFFF [0x80] State.reset))) 0xD122 (fun t =>
        t.reg 0xF == 1 && !t.dirty && !t.fb.pixel 0 0 && t.reports == [.anomaly .dataAddrRange 0x200 0xD122])
      = true := by decide

/-! ## Keys and timers -/

/-- K3, K4: the low nibble selects; the event bit is not a key state. -/
theorem test_skp :
    stepPasses (withRegs [(2, 0xF5)] ((atPc 0x220).pressKey 5)) 0xE29E (fun t => t.pc == 0x224)
      && stepPasses (withRegs [(2, 0x05)] (((atPc 0x220).pressKey 5).unpressKey 5)) 0xE29E (fun t => t.pc == 0x222)
      = true := by decide

/-- K6, K7. -/
theorem test_sknp :
    stepPasses (withRegs [(2, 0x05)] (atPc 0x220)) 0xE2A1 (fun t => t.pc == 0x224)
      && stepPasses (withRegs [(2, 0x25)] ((atPc 0x220).pressKey 5)) 0xE2A1 (fun t => t.pc == 0x222) = true := by decide

/-- W1: the entry clears the event bits and keeps `PC`. -/
theorem test_key_wait_enters :
    stepPasses ((atPc 0x210).pressKey 3) 0xF30A (fun t =>
      t.mode == .waitingForKeypress && !KeyBits.get t.keyEvt 3 && KeyBits.get t.keys 3 && t.pc == 0x210) = true := by
  decide

/-- W5, W8: the lowest event bit is captured; `VF` as the destination. -/
theorem test_key_wait_captures :
    stepPasses { waiting 9 with keyEvt := KeyBits.put (waiting 9).keyEvt 2 true } 0xF30A (fun t =>
      t.reg 3 == 2 && t.pc == 0x212 && t.mode == .running && KeyBits.get t.keyEvt 2)
      && stepPasses (waiting 0xF) 0xFF0A (fun t => t.reg 0xF == 0x0F && t.pc == 0x212) = true := by decide

/-- K9. -/
theorem test_ld_vx_dt :
    stepPasses { State.reset with dt := 60 } 0xF407 (fun t => t.reg 4 == 0x3C && t.dt == 60) = true := by decide

/-- K11. -/
theorem test_ld_dt_vx :
    stepPasses (withRegs [(4, 60)] State.reset) 0xF415 (fun t => t.dt == 60 && t.st == 0) = true := by decide

/-- K14. -/
theorem test_ld_st_vx :
    stepPasses { withRegs [(4, 5)] State.reset with dt := 9 } 0xF418 (fun t => t.st == 5 && t.dt == 9) = true := by decide

/-! ## Clock and host operations -/

/-- R163, vector C7: the tick floors at 0. -/
theorem test_timer_tick :
    ({ State.reset with dt := 1, st := 0 } : State).timerTick.dt = 0 ∧
      ({ State.reset with dt := 1, st := 0 } : State).timerTick.st = 0 ∧
      ({ State.reset with dt := 255, st := 3 } : State).timerTick.dt = 254 := by decide

/-- C1, `Update(1)`: nothing is due, the debts are 500 and 60. -/
theorem test_update_accumulates :
    (match State.reset.update p500 1 with
      | .next (t, .steps 0) => t.accCpu == 500 && t.accTmr == 60 && t.tLast == 1 && t.pc == 0x200
      | _ => false) = true := by decide

/-- C3: a rate above 1000 acts as 1000. -/
theorem test_rate_clamp : cpuHz { p500 with cpuHzCfg := 2000, cpuHzCfg_pos := by decide } = 1000 ∧ cpuHz p500 = 500 := by
  decide

/-- H2, H3, H4. -/
theorem test_key_port :
    KeyBits.get (State.reset.pressKey 0x1C).keys 0xC = true ∧ KeyBits.get (State.reset.pressKey (-1)).keyEvt 0xF = true ∧
      KeyBits.get (State.reset.pressKey 16).keys 0 = true ∧
      KeyBits.get ((State.reset.pressKey 5).unpressKey 0x15).keys 5 = false ∧
      KeyBits.get ((State.reset.pressKey 5).unpressKey 0x15).keyEvt 5 = true := by decide

/-- H6, H7, H8: the bytes of the packed frame. -/
theorem test_packed_bytes :
    displayByte 0xA5 (withPixel 0 0 State.reset).fb 0 = 0xA5 ∧ displayByte 0xA5 (withPixel 0 0 State.reset).fb 1 = 0x80 ∧
      displayByte 0xA5 (withPixel 31 63 State.reset).fb 256 = 0x01 ∧
      displayByte 0xA5 (withPixel 3 9 State.reset).fb 26 = 0x40 ∧
      displayByte 0xA5 (withPixel 10 39 (withPixel 10 32 State.reset)).fb 85 = 0x81 := by decide

/-- H9 (the load part), R192. -/
theorem test_load :
    (match State.reset.load [0x12, 0x00] with
      | .next (t, .ok) => Memory.read t.mem 0x200 == 0x12 && Memory.read t.mem 0x201 == 0 && t.mem == [(0x200, 0x12)]
      | _ => false) = true := by decide

/-- R194: a Load in Halted, and a Load after a Load, have no meaning. -/
theorem test_load_lifecycle :
    State.load { State.reset with mode := .halted } [] = .refused .loadOutOfLifecycle ∧
      State.load { State.reset with loadable := false } [] = .refused .loadOutOfLifecycle := ⟨rfl, rfl⟩

/-- H13: Reset leaves Halted. -/
theorem test_reset_leaves_halted :
    ((fatalState (atPc 0x1000)).hostReset p500).mode = .running ∧ ((fatalState (atPc 0x1000)).hostReset p500).fault = none ∧
      ((fatalState (atPc 0x1000)).hostReset p500).pc = 0x200 := by decide

/-- The configuration of C1 with another table: every byte 0x3C. -/
def pOtherFont : Params := { p500 with font := Vector.replicate 80 0x3C }

/-- R6, R43: `FONT` is a parameter, written to [0x000, 0x050) by Reset; the default table is the one R43 prints. -/
theorem test_reset_font :
    Memory.read (State.reset.hostReset pOtherFont).mem 0x000 = 0x3C ∧
      Memory.read (State.reset.hostReset pOtherFont).mem 0x04F = 0x3C ∧
      Memory.read (State.reset.hostReset pOtherFont).mem 0x050 = 0 ∧
      Memory.read (State.reset.hostReset p500).mem 0x04B = 0xF0 := by
  simp only [State.hostReset_mem, State.read_resetWith]
  decide

/-- R40: there is no byte above 0xFFF to write, and a byte equal to the reset contents is not listed. -/
theorem test_memory_canonical :
    Memory.write [] 0x1000 0x55 = [] ∧ Memory.write [] 0x300 0x55 = [(0x300, 0x55)] ∧
      Memory.write [(0x300, 0x55)] 0x300 0 = [] ∧ Memory.write [(0x300, 0x55)] 0x000 0xF0 = [(0x300, 0x55)] ∧
      Memory.wf [(0x300, 0x55), (0x200, 0x12)] = false ∧ Memory.wf [(0x300, 0)] = false := by decide

/-! ## Witnesses: for every statement with hypotheses, operands and a state that meet them, clause by clause -/

/-- A running machine whose `PC` is at `pc`, with `LD V0, 1` there. -/
def loadedAt (pc : Word) : State := (atPc pc).withFetchWord 16 0x6001

/-- A waiting machine with the key wait at 0x300, one call on the stack and a clean frame. -/
def waitState : State :=
  { ((withStack 1 0 0x204 (atPc 0x300)).withFetchWord 16 0xF30A) with
    mode := .waitingForKeypress, dirty := false, packed := packDisplay 0xA5 State.reset.fb }

/-- The two clauses of the mode: running with any instruction, waiting with the key wait; both ends of the window. -/
theorem witness_StepRunsDecodedInstruction :
    ((loadedAt 0x200).mode = .running ∧ inFetchWindow (loadedAt 0x200).pc ∧ inFetchWindow (loadedAt 0xFFE).pc) ∧
    decode [Memory.read (loadedAt 0xFFE).mem 0xFFE, Memory.read (loadedAt 0xFFE).mem 0xFFF] = .ok (.ldVxKk 0 1, []) ∧
    waitState.mode = .waitingForKeypress ∧ inFetchWindow waitState.pc ∧
    decode [Memory.read waitState.mem waitState.pc.toNat, Memory.read waitState.mem (waitState.pc.toNat + 1)] =
      .ok (.ldVxK 3, []) :=
  ⟨by decide, rfl, rfl, by decide, rfl⟩

theorem witness_FetchIsBigEndian :
    decode [Memory.read (loadedAt 0x200).mem 0x200, Memory.read (loadedAt 0x200).mem 0x201] = .ok (.ldVxKk 0 1, []) ∧
    decodeWord (loadedAt 0x200).fetchOp = .ok (.ldVxKk 0 1) := ⟨rfl, rfl⟩

theorem witness_OnlyPcOutsideWindowIsFatal :
    ((atPc 0x1FF).mode ≠ .halted ∧ (atPc 0x1FF).pc.toNat < 0x200 ∧ 0xFFE < (atPc 0xFFF).pc.toNat) ∧
    (inFetchWindow (loadedAt 0x200).pc ∧ inFetchWindow (loadedAt 0xFFE).pc) ∧
    (∃ t, step (loadedAt 0x200) = .next t) ∧ (∃ t, step (loadedAt 0xFFE) = .next t) :=
  ⟨by decide, by decide, ⟨_, rfl⟩, ⟨_, rfl⟩⟩

theorem witness_HaltedDispatchesNoStep : (fatalState (atPc 0x1000)).mode = .halted := rfl

theorem witness_DecodeOfEncodeIsIdentity :
    (Instr.sys 0x0E1).wf = true ∧ (Instr.sys 0x0EF).wf = true ∧ (Instr.drw 0xF 0x0 0x0).wf = true := by decide

theorem witness_EncodeOfDecodeIsIdentity :
    decodeWord 0x812E = .ok (.shlVx 1 2) ∧ decodeWord 0x00E1 = .ok (.sys 0x0E1) := ⟨rfl, rfl⟩

/-- Row 1 beside the words it excludes, rows 2 and 35. -/
theorem witness_OpcodeMapRowsDecode :
    (∃ row ∈ opcodeMap, row.mask = 0xF000 ∧ row.pattern = 0x0000 ∧ row.selects 0x00E1) ∧
    (∃ row ∈ opcodeMap, row.pattern = 0x00E0 ∧ row.selects 0x00E0) ∧
    (∃ row ∈ opcodeMap, row.pattern = 0xF065 ∧ row.selects 0xFF65) :=
  ⟨⟨opcodeMap[0], List.getElem_mem _, rfl, rfl, rfl, Or.inr ⟨by decide, by decide⟩⟩,
   ⟨opcodeMap[1], List.getElem_mem _, rfl, rfl, Or.inl rfl⟩,
   ⟨opcodeMap[34], List.getElem_mem _, rfl, rfl, Or.inr ⟨by decide, by decide⟩⟩⟩

/-- Each row of the table of R66 at a boundary value of its field. -/
theorem witness_UnrecognisedWordsAreReportedNops :
    unrecognised 0x5001 ∧ unrecognised 0x9FFF ∧ unrecognised 0x8008 ∧ unrecognised 0x800F ∧ unrecognised 0xE000 ∧
    unrecognised 0xFFFF ∧ ¬ unrecognised 0x800E ∧ ¬ unrecognised 0xF00A ∧
    ((atPc 0xFFE).withFetchWord 16 0x5001).mode = .running ∧
    inFetchWindow ((atPc 0xFFE).withFetchWord 16 0x5001).pc ∧
    ((atPc 0xFFE).withFetchWord 16 0x5001).fetchOp = 0x5001 := by
  refine ⟨?_, ?_, ?_, ?_, ?_, ?_, ?_, ?_, rfl, by decide, by decide⟩ <;> (unfold unrecognised; decide)

theorem witness_SysIsReportedNop :
    (0x0E1 : Addr) ≠ 0x0E0 ∧ (0x0E1 : Addr) ≠ 0x0EE ∧ (0x000 : Addr) ≠ 0x0E0 ∧ (0x000 : Addr) ≠ 0x0EE := by decide

theorem witness_CallPushesItsOwnAddress :
    (withStack 0 0 0 State.reset).sp.val < 16 ∧ (withStack 15 0 0 State.reset).sp.val < 16 ∧
    (withStack 16 0 0 State.reset).sp.val = 16 := by decide

theorem witness_RetPopsAndAdvances :
    (withStack 1 0 0x204 State.reset).sp.val = (0 : Fin 16).val + 1 ∧
    (withStack 16 15 0x204 State.reset).sp.val = (15 : Fin 16).val + 1 ∧ State.reset.sp.val = 0 := by decide

/-- A second state `u` that shares only the stack with the state after the call. -/
theorem witness_RetResumesAfterCall :
    ∃ t u : State, (withStack 15 0 0 (atPc 0x300)).sp.val < 16 ∧ exec (.call 0x400) (withStack 15 0 0 (atPc 0x300)) = .next t ∧
      u.sp = t.sp ∧ u.stk = t.stk ∧ u.pc = 0x20C ∧ u.i ≠ t.i :=
  ⟨_, { withStack 16 15 0x300 (withStack 15 0 0 (atPc 0x20C)) with i := 7 }, by decide, rfl, rfl, rfl, rfl, by decide⟩

/-- A jump, a return, a skip that is taken, a key wait that captures. -/
theorem witness_ProgramCounterFollowsAdvanceTable :
    (∃ t, exec (.jpV0 0xFFF) (withRegs [(0, 0xFF)] State.reset) = .next t) ∧
    (∃ t, exec .ret (withStack 1 0 0x204 State.reset) = .next t) ∧
    (∃ t, exec (.seVxKk 0 0) State.reset = .next t) ∧ (∃ t, exec (.ldVxK 3) (waiting 0) = .next t) :=
  ⟨⟨_, rfl⟩, ⟨_, rfl⟩, ⟨_, rfl⟩, ⟨_, rfl⟩⟩

/-- The destination beside `VF`, and `VF` itself. -/
theorem witness_AddWritesCarry : (0x1 : RegIx) ≠ 0xF ∧ (0xE : RegIx) ≠ 0xF := by decide

/-- Greater, less and equal operands. -/
theorem witness_SubtractionsWriteGreaterFlag :
    (0x1 : RegIx) ≠ 0xF ∧
    ((withRegs [(1, 1)] State.reset).reg 1).toNat > ((withRegs [(1, 1)] State.reset).reg 2).toNat ∧
    ((withRegs [(2, 1)] State.reset).reg 1).toNat < ((withRegs [(2, 1)] State.reset).reg 2).toNat ∧
    State.reset.reg 1 = State.reset.reg 2 := by decide

theorem witness_ShiftsWriteBitOut : (0x1 : RegIx) ≠ 0xF ∧ (0xE : RegIx) ≠ 0xF := by decide

theorem witness_RandomByteIsMasked : (0x0F : Byte).getLsbD 4 = false ∧ (0x0F : Byte).getLsbD 7 = false := by decide

/-- A flag writer, a draw out of range, and an instruction that leaves `VF`. -/
theorem witness_OnlyFlagWritersTouchVf :
    ((∃ t, exec (.addVxVy 0xF 1) State.reset = .next t) ∧ writesFlag (.addVxVy 0xF 1) = true) ∧
    ((∃ t, exec (.drw 1 2 1) (withData 0x1000 [] State.reset) = .next t) ∧ writesFlag (.drw 1 2 1) = true) ∧
    ((∃ t, exec (.ldVxMem 0xE) State.reset = .next t) ∧ writesFlag (.ldVxMem 0xE) = false ∧
      0xF ∉ destinations (.ldVxMem 0xE)) :=
  ⟨⟨⟨_, rfl⟩, rfl⟩, ⟨⟨_, rfl⟩, rfl⟩, ⟨_, rfl⟩, rfl, by decide⟩

theorem witness_InstructionsStayInFootprint :
    (∃ t, exec (.ldMemVx 0xF) (withData 0xFF0 [] State.reset) = .next t) ∧
    (∃ t, exec (.call 0x200) (withStack 16 0 0 State.reset) = .next t) := ⟨⟨_, rfl⟩, ⟨_, rfl⟩⟩

/-- The last `I` in range and the first out of it. -/
theorem witness_BcdStoresThreeDigits :
    (withData 0xFFD [] State.reset).i.toNat + 2 ≤ 0xFFF ∧ 0xFFF < (withData 0xFFE [] State.reset).i.toNat + 2 := by decide

theorem witness_BlockDumpStoresRegisters :
    ((withData 0xFF0 [] State.reset).i.toNat + (0xF : RegIx).toNat ≤ 0xFFF ∧ (0xF : RegIx).toNat ≤ (0xF : RegIx).toNat) ∧
    0xFFF < (withData 0xFF1 [] State.reset).i.toNat + (0xF : RegIx).toNat := by decide

theorem witness_BlockLoadReadsRegisters :
    ((withData 0xFFF [] State.reset).i.toNat + (0x0 : RegIx).toNat ≤ 0xFFF ∧ (0x0 : RegIx).toNat ≤ (0x0 : RegIx).toNat) ∧
    0xFFF < (withData 0xFFF [] State.reset).i.toNat + (0x1 : RegIx).toNat := by decide

/-- A second state `u` that shares memory and `I` with the state after the dump, its registers changed. -/
theorem witness_BlockLoadUndoesBlockDump :
    ∃ t u : State, (withData 0x400 [] State.reset).i.toNat + (0x1 : RegIx).toNat ≤ 0xFFF ∧
      exec (.ldMemVx 1) (withRegs [(1, 0xBB)] (withData 0x400 [] State.reset)) = .next t ∧
      u.mem = t.mem ∧ u.i = t.i ∧ u.reg 1 = 0x11 ∧ t.reg 1 = 0xBB :=
  ⟨_, { withRegs [(1, 0x11)] State.reset with mem := [(0x401, 0xBB)], i := 0x400 },
    by decide, rfl, by decide, rfl, by decide, by decide⟩

/-- Vector M28, and the last place where two bytes fit. -/
theorem witness_StoredWordIsFetchedNext :
    (1 ≤ (0x1 : RegIx).toNat ∧ (withData 0x202 [] State.reset).i.toNat + (0x1 : RegIx).toNat ≤ 0xFFF ∧
      (withData 0x202 [] State.reset).i = (withData 0x202 [] State.reset).pc + 2) ∧
    (withData 0xFFE [] (atPc 0xFFC)).i.toNat + (0x1 : RegIx).toNat ≤ 0xFFF ∧
      (withData 0xFFE [] (atPc 0xFFC)).i = (withData 0xFFE [] (atPc 0xFFC)).pc + 2 := by decide

theorem witness_MemoryReadsLastWrite :
    (0xFFF : Nat) ≤ 0xFFF ∧ (0xFFE : Nat) ≠ 0xFFF ∧ Memory.wf [(0x200, 0x12), (0xFFF, 0x34)] = true := by decide

/-- In range at the last address and with no byte; out of range by one. -/
theorem witness_DrawInvertsCoveredPixels :
    spriteInRange (withData 0xFFF [] State.reset) 1 ∧ spriteInRange (withData 0x2000 [] State.reset) 0 ∧
    ¬ spriteInRange (withData 0xFFF [] State.reset) 2 := by decide

/-- A covered pixel that is off, one that is on, and a pixel that is not covered: `FB` with (0, 1) on, sprite byte 0xC0. -/
theorem witness_DrawInvertsCoveredPixels_covers :
    (Covers (withData 0x300 [0xC0] (withPixel 0 1 State.reset)) 1 2 1 0 1 ∧
      (withData 0x300 [0xC0] (withPixel 0 1 State.reset)).fb.pixel 0 1 = true) ∧
    ¬ Covers (withData 0x300 [0xC0] (withPixel 0 1 State.reset)) 1 2 1 31 1 ∧
    ¬ (∃ r c, Covers State.reset 1 2 0 r c ∧ State.reset.fb.pixel r c = true) := by
  refine ⟨⟨⟨0, by decide, 1, by decide, by decide, by decide, by decide⟩, by decide⟩, ?_, ?_⟩
  · rintro ⟨k, hk, -, -, -, hr, -⟩
    have : k = 0 := by simpa using hk
    subst this
    exact absurd hr (by decide)
  · rintro ⟨-, -, ⟨k, hk, -⟩, -⟩
    exact absurd hk (by simp)

theorem witness_DrawTwiceRestoresFramebuffer :
    (0x1 : RegIx) ≠ 0xF ∧ (0x2 : RegIx) ≠ 0xF ∧ spriteInRange (withData 0x300 [0x80] State.reset) 1 ∧
    (∃ t, exec (.drw 1 2 1) (withData 0x300 [0x80] State.reset) = .next t) ∧
    (Covers (withData 0x300 [0x80] State.reset) 1 2 1 0 0 ∧
      (withData 0x300 [0x80] State.reset).fb.pixel 0 0 = false) ∧
    ¬ (∃ r c, Covers State.reset 1 2 0 r c ∧ State.reset.fb.pixel r c = false) := by
  refine ⟨by decide, by decide, by decide, ⟨_, rfl⟩,
    ⟨⟨0, by decide, 0, by decide, by decide, by decide, by decide⟩, by decide⟩, ?_⟩
  rintro ⟨-, -, ⟨k, hk, -⟩, -⟩
  exact absurd hk (by simp)

/-- The hypotheses hold with the conclusion true here; vector D5 followed by a second draw is where it is not. -/
theorem witness_SecondDrawAlwaysCollides :
    ∃ t w, spriteInRange (withData 0x300 [0x80] State.reset) 1 ∧
      exec (.drw 1 2 1) (withData 0x300 [0x80] State.reset) = .next t ∧ exec (.drw 1 2 1) t = .next w ∧
      (∃ r c, Covers (withData 0x300 [0x80] State.reset) 1 2 1 r c) :=
  ⟨_, _, by decide, rfl, rfl, 0, 0, 0, by decide, 0, by decide, by decide, by decide, by decide⟩

theorem witness_KeySkips :
    (0x5 : Nibble).toNat = ((withRegs [(2, 0xF5)] State.reset).reg 2).toNat % 16 ∧
    (0x0 : Nibble).toNat = (State.reset.reg 2).toNat % 16 := by decide

/-- Entry, the capture of the lowest and of the highest key, and the idle step. -/
theorem witness_KeyWaitEntersCapturesOrIdles :
    State.reset.mode = .running ∧
    ((waiting 0).mode = .waitingForKeypress ∧ KeyBits.get (waiting 0).keyEvt 0 = true) ∧
    (KeyBits.get (waiting 0xF).keyEvt 0xF = true ∧
      ∀ j : Nibble, j.toNat < (0xF : Nibble).toNat → KeyBits.get (waiting 0xF).keyEvt j = false) ∧
    (waitState.mode = .waitingForKeypress ∧ ∀ k, KeyBits.get waitState.keyEvt k = false) :=
  ⟨rfl, ⟨rfl, by decide⟩, ⟨by decide, by decide⟩, rfl, by decide⟩

theorem witness_TimerTickFloorsAtZero :
    0 < ({ State.reset with dt := 1, st := 255 } : State).dt.toNat ∧
    0 < ({ State.reset with dt := 1, st := 255 } : State).st.toNat ∧ State.reset.dt = 0 ∧ State.reset.st = 0 := by decide

/-- The whole debt, and none of it. -/
theorem witness_TimerLoopCountsDown :
    2 * p500.timebaseHz ≤ ({ State.reset with accTmr := 2000, dt := 1 } : State).accTmr ∧
    0 * p500.timebaseHz ≤ State.reset.accTmr := by decide

theorem witness_UpdateIsTheSpecsTwoLoops :
    State.reset.mode ≠ .halted ∧ State.reset.tLast ≤ 2 ∧ (∃ t, State.reset.update p500 2 = .next (t, .steps 1)) :=
  ⟨by decide, by decide, ⟨_, rfl⟩⟩

theorem witness_ZeroDeltaUpdateIsNop :
    ({ State.reset with accCpu := 999, accTmr := 999 } : State).mode ≠ .halted ∧
    ({ State.reset with accCpu := 999, accTmr := 999 } : State).accTmr < p500.timebaseHz ∧
    ({ State.reset with accCpu := 999, accTmr := 999 } : State).accCpu < p500.timebaseHz := by decide

theorem witness_UpdateCatchesUp : ∃ t, State.reset.update p500 2 = .next (t, .steps 1) := ⟨_, rfl⟩

theorem witness_UpdateIsBatchingInvariant :
    ∃ s1 s2 s', State.reset.update p500 1 = .next (s1, .steps 0) ∧ s1.update p500 2 = .next (s2, .steps 1) ∧
      State.reset.update p500 2 = .next (s', .steps 1) := ⟨_, _, _, rfl, rfl, rfl⟩

theorem witness_UpdateReturnsTheFault :
    (fatalState (atPc 0x1000)).mode = .halted ∧
    (atPc 0xFFF).mode ≠ .halted ∧ (∃ t l, (atPc 0xFFF).update p500 2 = .next (t, .fatal l)) :=
  ⟨rfl, by decide, ⟨_, _, rfl⟩⟩

theorem witness_DisplayFrameIsAPureCache : State.reset.dirty = true ∧ waitState.dirty = false := ⟨rfl, rfl⟩

theorem witness_DebugFrameIsRawMemory : (0 : Nat) < 4096 ∧ (4095 : Nat) < 4096 := by decide

theorem witness_FrameAfterClearIsZero : 1 ≤ (1 : Fin 257).val ∧ 1 ≤ (256 : Fin 257).val := by decide

/-- The longest image that fits, and one byte more. -/
theorem witness_LoadCopiesOrRejects :
    State.reset.loadable = true ∧ State.reset.mode = .running ∧
    (List.replicate 0xE00 (0x11 : Byte)).length ≤ 0xE00 ∧ 0xE00 < (List.replicate 0xE01 (0x11 : Byte)).length ∧
    (1 : Nat) < (List.replicate 0xE00 (0x11 : Byte)).length :=
  ⟨rfl, rfl, (List.length_replicate (n := 0xE00)).le, by rw [List.length_replicate]; decide,
    by rw [List.length_replicate]; decide⟩

theorem witness_LoadIsRefusedAfterLoadOrUpdate :
    (∃ t, State.reset.load [0x12, 0x00] = .next (t, .ok)) ∧ (∃ t, State.reset.update p500 0 = .next (t, .steps 0)) :=
  ⟨⟨_, rfl⟩, ⟨_, rfl⟩⟩

/-- The default table; the ends of the font and of the bytes above it. -/
theorem witness_ResetGivesTheResetTable :
    p500.font = defaultFont ∧ (0 : Nat) < 80 ∧ (79 : Nat) < 80 ∧ (0x050 : Nat) ≤ 0x050 ∧ (0x050 : Nat) ≤ 0xFFF :=
  ⟨rfl, by decide⟩

/-- A step that goes on and a step that stops. -/
theorem witness_DisplayReadIsInvisibleToPrograms :
    (∃ t, step State.reset = .next t) ∧ (∃ f, step (fatalState (atPc 0x1000)) = .fault f) ∧
    (∃ r, step { State.reset with mode := .waitingForKeypress } = .refused r) :=
  ⟨⟨_, rfl⟩, ⟨_, rfl⟩, ⟨_, rfl⟩⟩

/-- The invariant in a waiting state with a call on the stack and a clean frame. -/
theorem waitState_inv : Inv waitState where
  memWf := by decide
  faultEmpty _ := rfl
  faultLatched h := by cases h
  pcBound := by decide
  stackPc := by decide
  waitWord _ := ⟨by decide, 3, rfl⟩
  packedFresh _ := by
    intro r g
    have hk : 1 + 8 * r.val + g.val ≠ 0 := by omega
    have h8 : (1 + 8 * r.val + g.val - 1) / 8 = r.val := by omega
    have h1 : (1 + 8 * r.val + g.val - 1) % 8 = g.val := by omega
    have hr : Fin.ofNat 32 r.val = r := by ext; simp [Fin.ofNat, Nat.mod_eq_of_lt r.isLt]
    have hg : Fin.ofNat 8 g.val = g := by ext; simp [Fin.ofNat, Nat.mod_eq_of_lt g.isLt]
    show (packDisplay 0xA5 State.reset.fb)[1 + 8 * r.val + g.val] = pack8 (FrameBuffer.group State.reset.fb r g)
    simp only [packDisplay, Vector.getElem_ofFn, displayByte, if_neg hk, h8, h1, hr, hg]

/-- A machine that halted inside an `Update` (vector E2: the CPU debt stays). -/
def haltedState : State := { fatalState (atPc 0x1000) with accCpu := 5000 }

/-- The invariant in a halted state. -/
theorem fatal_inv : Inv haltedState where
  memWf := by decide
  faultEmpty h := absurd rfl h
  faultLatched _ := ⟨rfl, by decide⟩
  pcBound := by decide
  stackPc := by decide
  waitWord h := by cases h
  packedFresh h := by cases h

theorem witness_StepKeepsTheInvariant : Inv waitState ∧ ∃ t, step waitState = .next t := ⟨waitState_inv, ⟨_, rfl⟩⟩

theorem witness_StepNeverStopsUnlessHalted : Inv waitState ∧ waitState.mode ≠ .halted := ⟨waitState_inv, by decide⟩

/-- The invariant of the host's calls, waiting and halted. -/
theorem witness_HostOperationsKeepTheInvariant :
    (HostInv p500 waitState ∧ ∃ t r, hostOp p500 (.pressKey 7) waitState = .next (t, r)) ∧
    HostInv p500 haltedState :=
  ⟨⟨⟨waitState_inv, by decide, fun _ => by decide, fun _ => by simp [waitState, packDisplay, displayByte, p500]⟩, ⟨_, _, rfl⟩⟩,
   ⟨fatal_inv, by decide, fun h => absurd rfl h, fun h => nomatch h⟩⟩

theorem witness_UpdateAlwaysReturns : HostInv p500 waitState ∧ waitState.tLast ≤ 0 :=
  ⟨witness_HostOperationsKeepTheInvariant.1.1, by decide⟩

end Sys2Proof.Tests
end

section
/-! PROOFS. The family of spec/10_state.md: the footprints of R27, the flag of R11, the reset table of R26 and the
invariant between steps. One rule per state operation says what the operation keeps (`Effect`); each instruction is a
chain of these rules (`exec_effect`), and the statements are read off from that. -/

namespace Sys2Proof.Proofs

open Sys2Proof Sys2Proof.Machine Sys2Proof.Safety

/-! ## The stack operations read backwards (10_state.md R14) -/

/-- A push that answers found room. -/
theorem push_some {s t : State} {w : Word} (h : s.push w = some t) :
    ∃ hlt : s.sp.val < 16,
      t = { s with stk := s.stk.set s.sp.val w hlt, sp := ⟨s.sp.val + 1, Nat.succ_lt_succ hlt⟩ } := by
  by_cases hlt : s.sp.val < 16
  · rw [State.push_of_lt w hlt, Option.some.injEq] at h
    exact ⟨hlt, h.symm⟩
  · rw [State.push_full w hlt] at h
    cases h

theorem push_none {s : State} {w : Word} (h : s.push w = none) : s.sp.val = 16 := by
  by_contra hne
  rw [State.push_of_lt w (by omega)] at h
  cases h

/-- A pop that answers found an entry. -/
theorem pop_some {s t : State} {w : Word} (h : s.pop = some (w, t)) :
    ∃ (n : Nat) (hlt : n + 1 < 17), s.sp = ⟨n + 1, hlt⟩ ∧ w = s.stk[n] ∧ t = { s with sp := ⟨n, by omega⟩ } := by
  rcases hsp : s.sp with ⟨_ | n, hlt⟩
  · rw [State.pop_empty (by rw [hsp])] at h
    cases h
  · rw [State.pop_of_eq hlt hsp, Option.some.injEq, Prod.mk.injEq] at h
    exact ⟨n, hlt, rfl, h.1.symm, h.2.symm⟩

theorem pop_none {s : State} (h : s.pop = none) : s.sp = 0 := by
  rcases hsp : s.sp with ⟨_ | n, hlt⟩
  · rfl
  · rw [State.pop_of_eq hlt hsp] at h
    cases h

/-! ## What a part of an instruction leaves -/

/-- `Keeps` and what a footprint does not say of an instruction that began in `s`: memory stays canonical, a changed
framebuffer is marked dirty, and every valid stack entry is an old one or the starting `PC`. -/
structure Effect (f : Footprint) (s t : State) : Prop extends Keeps f s t where
  memWf : Memory.wf s.mem = true → Memory.wf t.mem = true
  frame : t.dirty = false → s.dirty = false ∧ t.fb = s.fb
  stack : ∀ n : Fin 16, n.val < t.sp.val → t.stk[n] = s.pc ∨ (n.val < s.sp.val ∧ t.stk[n] = s.stk[n])

section
variable {f : Footprint} {s t u : State}

theorem Effect.refl (f : Footprint) (s : State) : Effect f s s where
  regs _ _ := rfl
  index _ := rfl
  sp _ := rfl
  entries _ _ := rfl
  dt _ := rfl
  st _ := rfl
  cells _ _ := rfl
  fb _ := rfl
  dirty _ := rfl
  packed := rfl
  keys := rfl
  keyEvt _ := rfl
  mode _ := rfl
  fault := rfl
  tLast := rfl
  accCpu := rfl
  accTmr := rfl
  reports _ := rfl
  draws _ := rfl
  loadable := rfl
  memWf h := h
  frame h := ⟨h, rfl⟩
  stack _ h := .inr ⟨h, rfl⟩

/-! ### `PC` only -/

theorem Effect.advance (h : Effect f s t) : Effect f s t.advance := { h with }

theorem Effect.jump (h : Effect f s t) (w : Word) : Effect f s (t.jump w) := { h with }

theorem Effect.skipIf (h : Effect f s t) (taken : Bool) : Effect f s (t.skipIf taken) := { h with }

/-! ### One piece of state -/

theorem Effect.nopAnomaly (h : Effect f s t) (hf : f.reports = true) (k : Anomaly) (op : Word) :
    Effect f s (t.nopAnomaly k op) :=
  { h with reports := by simp [hf] }

theorem Effect.setReg (h : Effect f s t) {x : RegIx} (hx : x ∈ f.regs) (b : Byte) : Effect f s (t.setReg x b) :=
  { h with
    regs := fun k hk => by
      rw [State.reg_setReg_other _ _ (by rintro rfl; exact hk hx)]
      exact h.regs k hk }

theorem Effect.writeNoFlag (h : Effect f s t) {x : RegIx} (hx : x ∈ f.regs) (b : Byte) :
    Effect f s (t.writeNoFlag x b) :=
  (h.setReg hx b).advance

theorem Effect.writeWithFlag (h : Effect f s t) {x : RegIx} (hx : x ∈ f.regs) (hvf : vf ∈ f.regs) (b : Byte)
    (flag : Bool) : Effect f s (t.writeWithFlag x b flag) :=
  ((h.setReg hx b).setReg hvf _).advance

theorem Effect.setIndex (h : Effect f s t) (hf : f.index = true) (w : Word) : Effect f s { t with i := w } :=
  { h with index := by simp [hf] }

theorem Effect.setDt (h : Effect f s t) (hf : f.dt = true) (b : Byte) : Effect f s { t with dt := b } :=
  { h with dt := by simp [hf] }

theorem Effect.setSt (h : Effect f s t) (hf : f.st = true) (b : Byte) : Effect f s { t with st := b } :=
  { h with st := by simp [hf] }

theorem Effect.setDraws (h : Effect f s t) (hf : f.draws = true) (n : Nat) : Effect f s { t with draws := n } :=
  { h with draws := by simp [hf] }

theorem Effect.setMode (h : Effect f s t) (hf : f.mode = true) (m : Mode) : Effect f s { t with mode := m } :=
  { h with mode := by simp [hf] }

theorem Effect.setKeyEvt (h : Effect f s t) (hf : f.keyEvt = true) (ks : KeyBits) :
    Effect f s { t with keyEvt := ks } :=
  { h with keyEvt := by simp [hf] }

/-- A framebuffer is only ever written together with `DIRTY` (R130, R131). -/
theorem Effect.setFb (h : Effect f s t) (hf : f.fb = true) (hd : f.dirty = true) (fb : FrameBuffer) :
    Effect f s { t with fb := fb, dirty := true } :=
  { h with
    fb := by simp [hf]
    dirty := by simp [hd]
    frame := by simp }

/-! ### Memory, register blocks, stack -/

theorem Effect.writeMem (h : Effect f s t) {a : Nat} (ha : a ∈ f.cells) (b : Byte) :
    Effect f s { t with mem := Memory.write t.mem a b } :=
  { h with
    cells := fun c hc => by
      have hne : c ≠ a := by rintro rfl; exact hc ha
      exact (Memory.read_write_other t.mem b hne).trans (h.cells c hc)
    memWf := fun hs => Memory.wf_write a b (h.memWf hs) }

theorem Effect.writeBytes (h : Effect f s t) {a : Nat} {bytes : List Byte}
    (ha : ∀ k < bytes.length, a + k ∈ f.cells) :
    Effect f s { t with mem := Memory.writeBytes t.mem a bytes } := by
  induction bytes generalizing a t with
  | nil => exact h
  | cons b rest ih =>
    refine ih (h.writeMem (ha 0 (by simp)) b) fun k hk => ?_
    rw [Nat.add_assoc, Nat.add_comm 1]
    exact ha (k + 1) (by simpa using hk)

theorem Effect.storeBlock (h : Effect f s t) {n : Nat} (ha : ∀ k < n, t.dataAddr k ∈ f.cells) :
    Effect f s (t.storeBlock n) :=
  { h with
    cells := fun c hc => by
      rw [State.storeBlock_mem, Memory.read_foldl_write_other]
      · exact h.cells c hc
      · exact fun k hk e => hc (e ▸ ha k (List.mem_range.mp hk))
    memWf := fun hs => Memory.wf_foldl_write _ _ _ (h.memWf hs) }

theorem Effect.loadBlock (h : Effect f s t) {n : Nat} (hr : ∀ k < n, blockReg k ∈ f.regs) :
    Effect f s (t.loadBlock n) := by
  unfold State.loadBlock
  generalize ht : t.mem = m
  clear ht
  induction n with
  | zero => exact h
  | succ n ih =>
    rw [List.range_succ, List.foldl_append]
    exact (ih fun k hk => hr k (Nat.lt_succ_of_lt hk)).setReg (hr n (Nat.lt_succ_self n)) _

/-- `CALL` pushes its own address (R91). -/
theorem Effect.push (h : Effect f s t) (hsp : f.sp = true) (he : t.sp.val ∈ f.entries)
    (hu : t.push s.pc = some u) : Effect f s u := by
  obtain ⟨hlt, rfl⟩ := push_some hu
  refine { h with sp := by simp [hsp], entries := fun n hn => ?_, stack := fun n hn => ?_ }
  · have hne : t.sp.val ≠ n.val := fun e => hn (e ▸ he)
    exact (Vector.getElem_set_ne hlt n.isLt hne).trans (h.entries n hn)
  · by_cases e : t.sp.val = n.val
    · exact .inl (by simp [e])
    · have hold : (t.stk.set t.sp.val s.pc hlt)[n] = t.stk[n] := Vector.getElem_set_ne hlt n.isLt e
      simp only at hn ⊢
      rw [hold]
      exact h.stack n (by omega)

/-- A pop keeps the entry it hands back (R89). -/
theorem Effect.pop (h : Effect f s t) (hsp : f.sp = true) {w : Word} (hu : t.pop = some (w, u)) : Effect f s u := by
  obtain ⟨n, hlt, hn, -, rfl⟩ := pop_some hu
  exact { h with
    sp := by simp [hsp]
    stack := fun k hk => h.stack k (by rw [hn]; exact Nat.lt_succ_of_lt hk) }

end

/-! ## The instructions with more than one outcome -/

section
variable {s t : State}

/-- The two answers of a checked instruction. -/
theorem next_of_ite {c : Prop} [Decidable c] {u v : State}
    (h : (if c then .next u else .next v : StepResult) = .next t) : (c ∧ t = u) ∨ (¬ c ∧ t = v) := by
  split at h
  · next hc => exact .inl ⟨hc, (Host.Outcome.next.inj h).symm⟩
  · next hc => exact .inr ⟨hc, (Host.Outcome.next.inj h).symm⟩

/-- `RET` pops and resumes, or reports (R89). -/
theorem execRet_cases (h : exec .ret s = .next t) :
    (∃ p u, s.pop = some (p, u) ∧ t = u.jump (p + 2)) ∨
    (s.pop = none ∧ t = s.nopAnomaly .stackUnderflow (encode .ret)) := by
  change execRet s = .next t at h
  unfold execRet at h
  split at h
  · next p u hu => exact .inl ⟨p, u, hu, (Host.Outcome.next.inj h).symm⟩
  · next hu => exact .inr ⟨hu, (Host.Outcome.next.inj h).symm⟩

/-- `CALL` pushes and jumps, or reports (R91). -/
theorem execCall_cases {nnn : Addr} (h : exec (.call nnn) s = .next t) :
    (∃ u, s.push s.pc = some u ∧ t = u.jump (zextAddr nnn)) ∨
    (s.push s.pc = none ∧ t = s.nopAnomaly .stackOverflow (encode (.call nnn))) := by
  change execCall nnn s = .next t at h
  unfold execCall at h
  split at h
  · next u hu => exact .inl ⟨u, hu, (Host.Outcome.next.inj h).symm⟩
  · next hu => exact .inr ⟨hu, (Host.Outcome.next.inj h).symm⟩

/-- `DRW` draws, or reports (R131). -/
theorem execDrw_cases {x y : RegIx} {n : Nibble} (h : exec (.drw x y n) s = .next t) :
    (s.dataInRange n.toNat = true ∧
      t = (({ s with fb := (s.drawSprite (s.reg x) (s.reg y) n.toNat).fb, dirty := true } : State).setReg vf
        (flagByte (s.drawSprite (s.reg x) (s.reg y) n.toNat).hit)).advance) ∨
    (¬ s.dataInRange n.toNat = true ∧ t = s.nopAnomaly .dataAddrRange (encode (.drw x y n))) :=
  next_of_ite h

/-- `LD B, Vx` stores, or reports (R123). -/
theorem execLdBVx_cases {x : RegIx} (h : exec (.ldBVx x) s = .next t) :
    (s.dataInRange 3 = true ∧
      t = ({ s with mem := Memory.writeBytes s.mem (s.dataAddr 0) (bcdDigits (s.reg x)) } : State).advance) ∨
    (¬ s.dataInRange 3 = true ∧ t = s.nopAnomaly .dataAddrRange (encode (.ldBVx x))) :=
  next_of_ite h

/-- `LD [I], Vx` stores, or reports (R124). -/
theorem execLdMemVx_cases {x : RegIx} (h : exec (.ldMemVx x) s = .next t) :
    (s.dataInRange (x.toNat + 1) = true ∧ t = (s.storeBlock (x.toNat + 1)).advance) ∨
    (¬ s.dataInRange (x.toNat + 1) = true ∧ t = s.nopAnomaly .dataAddrRange (encode (.ldMemVx x))) :=
  next_of_ite h

/-- `LD Vx, [I]` loads, or reports (R125). -/
theorem execLdVxMem_cases {x : RegIx} (h : exec (.ldVxMem x) s = .next t) :
    (s.dataInRange (x.toNat + 1) = true ∧ t = (s.loadBlock (x.toNat + 1)).advance) ∨
    (¬ s.dataInRange (x.toNat + 1) = true ∧ t = s.nopAnomaly .dataAddrRange (encode (.ldVxMem x))) :=
  next_of_ite h

/-- `LD Vx, K` enters the wait, captures a key, or idles (R142). -/
theorem execLdVxK_cases {x : RegIx} (h : exec (.ldVxK x) s = .next t) :
    (s.mode = .running ∧ t = { s with mode := .waitingForKeypress, keyEvt := KeyBits.clear }) ∨
    (∃ k, s.mode = .waitingForKeypress ∧ KeyBits.lowest s.keyEvt = some k ∧
      t = (({ s with mode := .running } : State).setReg x (k.setWidth 8)).advance) ∨
    (s.mode = .waitingForKeypress ∧ KeyBits.lowest s.keyEvt = none ∧ t = s) := by
  change execLdVxK x s = .next t at h
  unfold execLdVxK at h
  split at h
  · next hm => exact .inl ⟨hm, (Host.Outcome.next.inj h).symm⟩
  · next hm =>
    split at h
    · next k hk => exact .inr (.inl ⟨k, hm, hk, (Host.Outcome.next.inj h).symm⟩)
    · next hk => exact .inr (.inr ⟨hm, hk, (Host.Outcome.next.inj h).symm⟩)
  · cases h

end

/-! ## What an instruction leaves (10_state.md R27) -/

/-- The addresses `I .. I+n-1` are the instruction's cells. -/
theorem dataAddr_mem_dataCells (s : State) {k n : Nat} (h : k < n) : s.dataAddr k ∈ dataCells s n :=
  List.mem_map_of_mem (List.mem_range.mpr h)

/-- The registers `V0 .. Vx` are the block's registers. -/
theorem blockReg_mem_blockRegs {x : RegIx} {k : Nat} (h : k < x.toNat + 1) : blockReg k ∈ blockRegs x :=
  List.mem_map_of_mem (List.mem_range.mpr h)

/-- Every instruction stays in the footprint of its row of R27. -/
theorem exec_effect {i : Instr} {s t : State} (h : exec i s = .next t) : Effect (footprintOf i s) s t := by
  have start : Effect (footprintOf i s) s s := Effect.refl _ s
  cases i with
  | sys nnn => cases h; exact start.nopAnomaly rfl _ _
  | cls => cases h; exact (start.setFb rfl rfl _).advance
  | ret =>
    obtain ⟨p, u, hu, rfl⟩ | ⟨-, rfl⟩ := execRet_cases h
    · exact (start.pop rfl hu).jump _
    · exact start.nopAnomaly rfl _ _
  | jp nnn | jpV0 nnn => cases h; exact start.jump _
  | call nnn =>
    obtain ⟨u, hu, rfl⟩ | ⟨-, rfl⟩ := execCall_cases h
    · exact (start.push rfl (List.mem_singleton_self _) hu).jump _
    · exact start.nopAnomaly rfl _ _
  | seVxKk x kk | sneVxKk x kk | seVxVy x y | sneVxVy x y | skp x | sknp x => cases h; exact start.skipIf _
  | ldVxKk x kk | addVxKk x kk | ldVxVy x y | orVxVy x y | andVxVy x y | xorVxVy x y | ldVxDt x =>
    cases h; exact start.writeNoFlag (List.mem_singleton_self x) _
  | addVxVy x y | subVxVy x y | shrVx x y | subnVxVy x y | shlVx x y =>
    cases h; exact start.writeWithFlag List.mem_cons_self (List.mem_cons_of_mem _ List.mem_cons_self) _ _
  | ldI nnn | addIVx x | ldFVx x => cases h; exact (start.setIndex rfl _).advance
  | rnd x kk => cases h; exact (start.setDraws rfl _).writeNoFlag (List.mem_singleton_self x) _
  | drw x y n =>
    obtain ⟨-, rfl⟩ | ⟨-, rfl⟩ := execDrw_cases h
    · exact ((start.setFb rfl rfl _).setReg (List.mem_singleton_self _) _).advance
    · exact start.nopAnomaly rfl _ _
  | ldVxK x =>
    obtain ⟨-, rfl⟩ | ⟨k, -, -, rfl⟩ | ⟨-, -, rfl⟩ := execLdVxK_cases h
    · exact (start.setMode rfl .waitingForKeypress).setKeyEvt rfl KeyBits.clear
    · exact ((start.setMode rfl .running).setReg (List.mem_singleton_self x) _).advance
    · exact start
  | ldDtVx x => cases h; exact (start.setDt rfl _).advance
  | ldStVx x => cases h; exact (start.setSt rfl _).advance
  | ldBVx x =>
    obtain ⟨-, rfl⟩ | ⟨-, rfl⟩ := execLdBVx_cases h
    · exact (start.writeBytes (bytes := bcdDigits (s.reg x)) fun k hk => dataAddr_mem_dataCells s hk).advance
    · exact start.nopAnomaly rfl _ _
  | ldMemVx x =>
    obtain ⟨-, rfl⟩ | ⟨-, rfl⟩ := execLdMemVx_cases h
    · exact (start.storeBlock fun k hk => dataAddr_mem_dataCells s hk).advance
    · exact start.nopAnomaly rfl _ _
  | ldVxMem x =>
    obtain ⟨-, rfl⟩ | ⟨-, rfl⟩ := execLdVxMem_cases h
    · exact (start.loadBlock fun k hk => blockReg_mem_blockRegs hk).advance
    · exact start.nopAnomaly rfl _ _

/-- Settles O24: the footprint of every instruction, read off the chain of its operations. -/
theorem instructionsStayInFootprint : Obligations.InstructionsStayInFootprint :=
  fun _ _ _ h => (exec_effect h).toKeeps

/-! ## `VF` (10_state.md R11) -/

/-- An instruction that writes no flag writes its destinations and no other register. -/
theorem footprintOf_regs {i : Instr} (h : writesFlag i = false) (s : State) :
    (footprintOf i s).regs = destinations i := by
  cases i with
  | addVxVy | subVxVy | subnVxVy | shrVx | shlVx | drw => cases h
  | _ => rfl

/-- `writeWithFlag` leaves 0 or 1 in `VF` (41_alu.md R113). -/
theorem vf_writeWithFlag (s : State) (x : RegIx) (b : Byte) (flag : Bool) :
    (s.writeWithFlag x b flag).reg 0xF = 0 ∨ (s.writeWithFlag x b flag).reg 0xF = 1 := by
  rw [State.reg_writeWithFlag, if_pos (by rfl)]
  exact flagByte_eq flag

/-- What a flag writer leaves in `VF`; a `DRW` out of range is only the reported no-op. -/
theorem exec_flagWriter_vf {i : Instr} {s t : State} (h : exec i s = .next t) (hi : writesFlag i = true) :
    t.reg 0xF = 0 ∨ t.reg 0xF = 1 ∨
      (t = nopState .dataAddrRange (encode i) s ∧ ∃ x y n, i = .drw x y n ∧ ¬ spriteInRange s n) := by
  cases i with
  | addVxVy x y | subVxVy x y | subnVxVy x y | shrVx x y | shlVx x y =>
    cases h
    exact (vf_writeWithFlag s x _ _).imp_right .inl
  | drw x y n =>
    obtain ⟨-, rfl⟩ | ⟨hr, rfl⟩ := execDrw_cases h
    · rw [State.reg_advance, show (0xF : RegIx) = vf from rfl, State.reg_setReg_same]
      exact (flagByte_eq _).imp_right .inl
    · rw [State.dataInRange_iff] at hr
      exact .inr (.inr ⟨rfl, x, y, n, rfl, hr⟩)
  | _ => cases hi

/-- Settles O23: the flag writers one by one, every other instruction by its footprint. -/
theorem onlyFlagWritersTouchVf : Obligations.OnlyFlagWritersTouchVf := by
  intro i s t h
  refine ⟨exec_flagWriter_vf h, fun hi hvf => (exec_effect h).regs 0xF ?_⟩
  rwa [footprintOf_regs hi s]

/-! ## `PC` after an instruction (40_step_and_control.md R86) -/

/-- The row of `RET` on an empty stack. -/
theorem pcAfter_ret_empty {s : State} (h : s.sp = 0) : pcAfter .ret s = s.pc + 2 := by
  cases s; cases h; rfl

/-- The row of `RET` with a stack entry to hand back. -/
theorem pcAfter_ret_succ {s : State} {n : Nat} {hlt : n + 1 < 17} (h : s.sp = ⟨n + 1, hlt⟩) :
    pcAfter .ret s = s.stk[n] + 2 := by
  cases s; cases h; rfl

/-- The row of `CALL`. -/
theorem pcAfter_call (nnn : Addr) (s : State) :
    pcAfter (.call nnn) s = if s.sp.val = 16 then s.pc + 2 else nnn.setWidth 16 := rfl

/-- The row of `LD Vx, K`. -/
theorem pcAfter_ldVxK (x : RegIx) (s : State) :
    pcAfter (.ldVxK x) s =
      if s.mode = .waitingForKeypress ∧ ∃ k, KeyBits.get s.keyEvt k = true then s.pc + 2 else s.pc := rfl

/-- The rows of the skips. -/
theorem skipIf_pc_of_iff (s : State) {taken : Bool} {p : Prop} [Decidable p] (h : taken = true ↔ p) :
    (s.skipIf taken).pc = pcAfterSkip s p := by
  simp [pcAfterSkip, h]

/-- Every instruction leaves `PC` where the table of R86 says. -/
theorem exec_pc {i : Instr} {s t : State} (h : exec i s = .next t) : t.pc = pcAfter i s := by
  cases i with
  | seVxKk | sneVxKk | seVxVy | sneVxVy | skp | sknp =>
    cases h; exact skipIf_pc_of_iff s (by simp [keyNumber])
  | ret =>
    obtain ⟨p, u, hu, rfl⟩ | ⟨hu, rfl⟩ := execRet_cases h
    · obtain ⟨n, hlt, hsp, rfl, -⟩ := pop_some hu
      exact (pcAfter_ret_succ hsp).symm
    · exact (pcAfter_ret_empty (pop_none hu)).symm
  | call nnn =>
    obtain ⟨u, hu, rfl⟩ | ⟨hu, rfl⟩ := execCall_cases h
    · obtain ⟨hlt, -⟩ := push_some hu
      rw [pcAfter_call, if_neg hlt.ne]
      rfl
    · rw [pcAfter_call, if_pos (push_none hu)]
      rfl
  | drw =>
    obtain ⟨-, rfl⟩ | ⟨-, rfl⟩ := execDrw_cases h
    · rfl
    · rfl
  | ldVxK x =>
    obtain ⟨hm, rfl⟩ | ⟨k, hm, hk, rfl⟩ | ⟨hm, hk, rfl⟩ := execLdVxK_cases h
    · simp [pcAfter_ldVxK, hm]
    · rw [pcAfter_ldVxK, if_pos ⟨hm, k, KeyBits.lowest_some hk⟩]
      rfl
    · simp [pcAfter_ldVxK, KeyBits.lowest_none.mp hk]
  | ldBVx =>
    obtain ⟨-, rfl⟩ | ⟨-, rfl⟩ := execLdBVx_cases h
    · rfl
    · rfl
  | ldMemVx =>
    obtain ⟨-, rfl⟩ | ⟨-, rfl⟩ := execLdMemVx_cases h
    · rfl
    · rfl
  | ldVxMem =>
    obtain ⟨-, rfl⟩ | ⟨-, rfl⟩ := execLdVxMem_cases h
    · rw [State.loadBlock_eq]; rfl
    · rfl
  | _ => cases h; rfl

/-- `PC + 2` and `PC + 4` from inside the window do not wrap. -/
theorem toNat_add_le {pc : Word} (h : pc.toNat ≤ 0xFFE) : (pc + 2).toNat ≤ 0x10FE ∧ (pc + 4).toNat ≤ 0x10FE := by
  bv_omega

theorem pcAfterSkip_le {s : State} (h : s.pc.toNat ≤ 0xFFE) (taken : Prop) [Decidable taken] :
    (pcAfterSkip s taken).toNat ≤ 0x10FE := by
  unfold pcAfterSkip
  split
  · exact (toNat_add_le h).2
  · exact (toNat_add_le h).1

/-- The highest `PC` an instruction can leave is that of `JP V0, 0xFFF` with `V0 = 0xFF` (10_state.md R13). -/
theorem pcAfter_le (i : Instr) {s : State} (hpc : s.pc.toNat ≤ 0xFFE)
    (hstk : ∀ n : Fin 16, n.val < s.sp.val → s.stk[n].toNat ≤ 0xFFE) : (pcAfter i s).toNat ≤ 0x10FE := by
  have hnext := (toNat_add_le hpc).1
  have hnnn (nnn : Addr) : (nnn.setWidth 16 : Word).toNat = nnn.toNat := by simp; omega
  have hv0 : ((s.reg 0).setWidth 16 : Word).toNat = (s.reg 0).toNat := by simp; omega
  cases i with
  | seVxKk | sneVxKk | seVxVy | sneVxVy | skp | sknp => exact pcAfterSkip_le hpc _
  | jp nnn =>
    show (nnn.setWidth 16 : Word).toNat ≤ _
    rw [hnnn]; omega
  | jpV0 nnn =>
    show ((nnn.setWidth 16 : Word) + (s.reg 0).setWidth 16).toNat ≤ _
    rw [BitVec.toNat_add, hnnn, hv0]
    omega
  | call nnn =>
    rw [pcAfter_call]
    split
    · exact hnext
    · rw [hnnn]; omega
  | ret =>
    rcases hsp : s.sp with ⟨_ | n, hlt⟩
    · rw [pcAfter_ret_empty hsp]; exact hnext
    · rw [pcAfter_ret_succ hsp]
      exact (toNat_add_le (hstk ⟨n, by omega⟩ (by rw [hsp]; exact Nat.lt_succ_self n))).1
  | ldVxK x =>
    rw [pcAfter_ldVxK]
    split
    · exact hnext
    · omega
  | _ => exact hnext

/-! ## The invariant between steps -/

/-- Only the key wait writes `MODE` (R27). -/
theorem footprintOf_mode (i : Instr) (s : State) : (footprintOf i s).mode = Instr.isKeyWait i := by
  cases i <;> rfl

/-- A dispatched instruction ends in Running, or is the key wait and waits where it stands (R85, R142). -/
theorem exec_mode {i : Instr} {s t : State} (h : exec i s = .next t) (hrun : s.mode = .running ∨ ∃ x, i = .ldVxK x) :
    t.mode = .running ∨
      (t.mode = .waitingForKeypress ∧ t.pc = s.pc ∧ t.mem = s.mem ∧ ∃ x, i = .ldVxK x) := by
  by_cases hi : ∃ x, i = .ldVxK x
  · obtain ⟨x, rfl⟩ := hi
    obtain ⟨-, rfl⟩ | ⟨k, -, -, rfl⟩ | ⟨hm, -, rfl⟩ := execLdVxK_cases h
    · exact .inr ⟨rfl, rfl, rfl, x, rfl⟩
    · exact .inl rfl
    · exact .inr ⟨hm, rfl, rfl, x, rfl⟩
  · have hmode : (footprintOf i s).mode = false := by
      rw [footprintOf_mode, Bool.eq_false_iff, Ne, Instr.isKeyWait_iff]
      exact hi
    exact .inl (((exec_effect h).mode hmode).trans (hrun.resolve_right hi))

section
variable {s t : State}

/-- The fetched word depends on `PC` and memory only (R83). -/
theorem fetchOp_congr (hpc : t.pc = s.pc) (hmem : t.mem = s.mem) : t.fetchOp = s.fetchOp := by
  simp [State.fetchOp, hpc, hmem]

theorem packedFresh_congr (hp : t.packed = s.packed) (hfb : t.fb = s.fb) (h : packedFresh s) : packedFresh t := by
  intro r g
  simpa [hp, hfb] using h r g

/-- The fatal entry keeps the invariant (60_exceptions.md R155). -/
theorem inv_raiseFatal (hs : Inv s) (hpc : ¬ inFetchWindow s.pc) : Inv (s.raiseFatal .pcRange) :=
  { hs with
    faultEmpty := fun h => absurd rfl h
    faultLatched := fun _ => ⟨rfl, hpc⟩
    waitWord := fun h => nomatch h }

/-- The reported no-op of an unrecognised word keeps the invariant (R87). -/
theorem inv_nopAnomaly (hs : Inv s) (hrun : s.mode = .running) (hpc : inFetchWindow s.pc) (k : Anomaly) (op : Word) :
    Inv (s.nopAnomaly k op) :=
  { hs with
    faultLatched := fun h => nomatch hrun.symm.trans h
    pcBound := (toNat_add_le hpc.2).1
    waitWord := fun h => nomatch hrun.symm.trans h }

/-- A dispatched instruction keeps the invariant. -/
theorem inv_exec {i : Instr} (hs : Inv s) (hhalt : s.mode ≠ .halted) (hpc : inFetchWindow s.pc)
    (hi : decodeWord s.fetchOp = .ok i) (hrun : s.mode = .running ∨ ∃ x, i = .ldVxK x)
    (h : exec i s = .next t) : Inv t := by
  have eff := exec_effect h
  have hmode := exec_mode h hrun
  constructor
  case memWf => exact eff.memWf hs.memWf
  case faultEmpty => exact fun _ => eff.fault.trans (hs.faultEmpty hhalt)
  case faultLatched =>
    intro e
    obtain hm | ⟨hm, -⟩ := hmode
    · exact nomatch hm.symm.trans e
    · exact nomatch hm.symm.trans e
  case pcBound =>
    rw [exec_pc h]
    exact pcAfter_le i hpc.2 fun n hn => (hs.stackPc n hn).2
  case stackPc =>
    intro n hn
    obtain e | ⟨hn, e⟩ := eff.stack n hn
    · exact e ▸ hpc
    · exact e ▸ hs.stackPc n hn
  case waitWord =>
    intro e
    obtain hm | ⟨-, hpc', hmem, x, rfl⟩ := hmode
    · exact nomatch hm.symm.trans e
    · exact ⟨hpc' ▸ hpc, x, (fetchOp_congr hpc' hmem).symm ▸ hi⟩
  case packedFresh =>
    intro hd
    obtain ⟨hclean, hfb⟩ := eff.frame hd
    exact packedFresh_congr eff.packed hfb (hs.packedFresh hclean)

end

/-- Settles O55: the outcomes of a step one by one. -/
theorem stepKeepsTheInvariant : Obligations.StepKeepsTheInvariant := by
  intro s t hs hstep
  obtain ⟨-, h⟩ | ⟨-, hpc, h⟩ | ⟨i, hhalt, hpc, hi, hrun, h⟩ | ⟨hrun, hpc, -, h⟩ | ⟨-, -, -, h⟩ := step_cases s
  case inl => exact nomatch h.symm.trans hstep
  case inr.inl => exact Host.Outcome.next.inj (h.symm.trans hstep) ▸ inv_raiseFatal hs hpc
  case inr.inr.inl => exact inv_exec hs hhalt hpc hi hrun (h.symm.trans hstep)
  case inr.inr.inr.inl => exact Host.Outcome.next.inj (h.symm.trans hstep) ▸ inv_nopAnomaly hs hrun hpc _ _
  case inr.inr.inr.inr => exact nomatch h.symm.trans hstep

/-! ## Reset (10_state.md R26) -/

/-- The invariant after a Reset with any table. -/
theorem inv_resetWith (font : FontTable) : Inv (State.resetWith font) where
  memWf := State.wf_resetWith font
  faultEmpty _ := rfl
  faultLatched h := nomatch h
  pcBound := show (0x200 : Word).toNat ≤ 0x10FE by decide
  stackPc n h := absurd h (Nat.not_lt_zero n.val)
  waitWord h := nomatch h
  packedFresh h := nomatch h

/-- Settles O54: the reset state is the Reset with the default table. -/
theorem resetStateMeetsTheInvariant : Obligations.ResetStateMeetsTheInvariant :=
  ⟨State.resetWith_defaultFont ▸ inv_resetWith defaultFont, inv_resetWith⟩

/-- The byte of the Reset table at every address, through the machine's Reset. -/
theorem read_hostReset (s : State) (p : Params) (a : Nat) :
    Memory.read (s.hostReset p).mem a = if h : a < 80 then p.font[a] else 0 := by
  rw [State.hostReset_mem, State.read_resetWith]

/-- With the default table every address reads as its reset contents. -/
theorem read_hostReset_defaultFont (s : State) {p : Params} (hp : p.font = defaultFont) (a : Nat) :
    Memory.read (s.hostReset p).mem a = resetByte a := by
  rw [State.hostReset_mem, hp, State.resetWith_defaultFont, State.reset_mem, Memory.read_nil]

/-- Settles O52: the table of R26 row by row; memory by `read_hostReset`. -/
theorem resetGivesTheResetTable : Obligations.ResetGivesTheResetTable := by
  intro p s
  refine ⟨fun k => State.reg_reset k, rfl, rfl, rfl, fun n => ?_, rfl, rfl, fun a ha => ?_, fun hp => ?_, fun a ha => ?_,
    FrameBuffer.pixel_allOff, rfl, fun k => ⟨KeyBits.get_clear k, KeyBits.get_clear k⟩, rfl, rfl, rfl, rfl, rfl,
    State.resetWith_defaultFont⟩
  · simp
  · rw [read_hostReset, dif_pos ha]
  · simp only [read_hostReset_defaultFont s hp]
    decide
  · rw [read_hostReset, dif_neg (by omega)]

end Sys2Proof.Proofs
end

section
/-! PROOFS. The family of spec/20_memory.md: the big-endian fetch of R44, read after write of R54, and the store that the
next fetch sees (R52). A block dump leaves each register at its address (`read_storeBlock_reg`), and the fetch reads there. -/

namespace Sys2Proof.Proofs

open Sys2Proof Sys2Proof.Machine

/-! ## Read after write (20_memory.md R54) -/

/-- Settles O31: the laws of `Memory.write`, at an address inside memory. -/
theorem memoryReadsLastWrite : Obligations.MemoryReadsLastWrite :=
  fun m a b ha =>
    ⟨Memory.read_write_same m b (Nat.lt_succ_of_le ha), fun _ hc => Memory.read_write_other m b hc, Memory.wf_write a b⟩

/-! ## The fetched word (20_memory.md R44) -/

/-- Two bytes decode to an instruction exactly when the word they hold does; the other bytes are handed back. -/
theorem decode_pair_ok_iff (hi lo : Byte) (rest : List Byte) (i : Instr) :
    decode (hi :: lo :: rest) = .ok (i, rest) ↔ decodeWord (wordOfBytes hi lo) = .ok i := by
  rw [decode_pair]
  cases decodeWord (wordOfBytes hi lo) with
  | ok j => simp
  | error e => simp

/-- Settles O2: the fetched word is `wordOfBytes` of the two bytes at `PC`, as a number and to the decoder. -/
theorem fetchIsBigEndian : Obligations.FetchIsBigEndian :=
  fun _ => ⟨toNat_wordOfBytes _ _, decode_pair_ok_iff _ _ []⟩

/-! ## A store seen by the next fetch (20_memory.md R52, 42_index_memory.md R124) -/

/-- `LD [I], Vx` in range stores the block and goes on (R124). -/
theorem exec_ldMemVx_inRange {s : State} {x : RegIx} (h : s.i.toNat + x.toNat ≤ 0xFFF) :
    exec (.ldMemVx x) s = .next (s.storeBlock (x.toNat + 1)).advance :=
  if_pos ((s.dataInRange_iff _).mpr (.inr h))

/-- A block dump leaves its `k`-th register at `I + k`. -/
theorem read_storeBlock_reg (s : State) {n k : Nat} (hn : s.i.toNat + n ≤ memSize) (hk : k < n) :
    Memory.read (s.storeBlock n).mem (s.i.toNat + k) = s.reg (blockReg k) := by
  rw [s.read_storeBlock hn, if_pos (by omega), Nat.add_sub_cancel_left]

/-- The word at `I` after a dump of two or more registers is `{V0, V1}`. -/
theorem readWord_storeBlock (s : State) {n : Nat} (hn : s.i.toNat + n ≤ memSize) (h2 : 2 ≤ n) :
    Memory.readWord (s.storeBlock n).mem s.i.toNat = wordOfBytes (s.reg 0) (s.reg 1) :=
  congrArg₂ wordOfBytes (read_storeBlock_reg s (k := 0) hn (by omega)) (read_storeBlock_reg s (k := 1) hn (by omega))

/-- Settles O30: the dump goes on to `PC + 2`, which is `I`, and `{V0, V1}` stands there. -/
theorem storedWordIsFetchedNext : Obligations.StoredWordIsFetchedNext := by
  intro x s hx hrange hi
  have hn : s.i.toNat + (x.toNat + 1) ≤ memSize := Nat.succ_le_succ hrange
  have hpc : (s.storeBlock (x.toNat + 1)).advance.pc = s.i := hi.symm
  refine ⟨_, exec_ldMemVx_inRange hrange, ?_⟩
  rw [State.fetchOp, hpc, State.advance_mem]
  exact readWord_storeBlock s hn (Nat.succ_le_succ hx)

end Sys2Proof.Proofs
end

section
/-! PROOFS. The family of spec/30_encoding.md: decoding and encoding undo each other, the rows of R64 and the table of R66, and
the progress of the step. Every path of the decoder either reads an instruction whose word is the given one or ends in the
table of R66 (`DecodeSound`); the round trips, the rows and the rejected words are read off from that. -/

namespace Sys2Proof.Proofs

open Sys2Proof Sys2Proof.Machine Sys2Proof.Safety

/-! ## A word rebuilt from its fields (30_encoding.md R61, R62) -/

section
variable {op : Word} {c n : Nibble} {kk : Byte}

theorem formatNNN_of_class (hc : opClass op = c) : formatNNN c (opNnn op) = op :=
  hc ▸ formatNNN_fields op

theorem formatXKK_of_class (hc : opClass op = c) : formatXKK c (opX op) (opKk op) = op :=
  hc ▸ formatXKK_fields op

theorem formatXKK_of_class_kk (hc : opClass op = c) (hk : opKk op = kk) : formatXKK c (opX op) kk = op :=
  hk ▸ formatXKK_of_class hc

theorem formatXYN_of_class (hc : opClass op = c) : formatXYN c (opX op) (opY op) (opN op) = op :=
  hc ▸ formatXYN_fields op

theorem formatXYN_of_class_n (hc : opClass op = c) (hn : opN op = n) : formatXYN c (opX op) (opY op) n = op :=
  hn ▸ formatXYN_of_class hc

theorem formatNNN_inj {nnn nnn' : Addr} : formatNNN c nnn = formatNNN c nnn' ↔ nnn = nnn' :=
  ⟨fun e => by simpa using congrArg opNnn e, congrArg _⟩

end

/-- `SYS` is well formed unless its word is that of `CLS` or of `RET` (R64 row 1). -/
theorem wf_sys_iff (nnn : Addr) :
    (Instr.sys nnn).wf = true ↔ encode (.sys nnn) ≠ 0x00E0#16 ∧ encode (.sys nnn) ≠ 0x00EE#16 := by
  rw [show 0x00E0#16 = formatNNN 0x0 0x0E0 by decide, show 0x00EE#16 = formatNNN 0x0 0x0EE by decide]
  simp [Instr.wf, Addr.sysOperand, encode, formatNNN_inj]

/-! ## Decoding the word of an instruction (R64, R65) -/

/-- The decoder reads back the word of every well-formed instruction: its class, and where the class has several rows its
sub-opcode, lead to the instruction's own row. -/
theorem decodeWord_encode {i : Instr} (h : i.wf = true) : decodeWord (encode i) = .ok i := by
  cases i with
  | sys nnn =>
    obtain ⟨hcls, hret⟩ := (wf_sys_iff nnn).mp h
    have hclass0 : decodeClass0 (encode (.sys nnn)) = .sys nnn := by
      rw [decodeClass0, if_neg hcls, if_neg hret, encode, opNnn_formatNNN]
    simpa [encode, decodeWord, decodeMain] using hclass0
  | cls | ret => rfl
  | jp | call | ldI | jpV0 | seVxKk | sneVxKk | ldVxKk | addVxKk | rnd | seVxVy | sneVxVy | drw =>
    simp [encode, decodeWord, decodeMain]
  | ldVxVy | orVxVy | andVxVy | xorVxVy | addVxVy | subVxVy | shrVx | subnVxVy | shlVx =>
    simp [encode, decodeWord, decodeMain, decodeClass8]
  | skp | sknp => simp [encode, decodeWord, decodeMain, decodeClassE]
  | ldVxK => simp [encode, decodeWord]
  | ldVxDt | ldDtVx | ldStVx | addIVx | ldFVx | ldBVx | ldMemVx | ldVxMem =>
    simp [encode, decodeWord, decodeMain, decodeClassF]

/-- A well-formed instruction with the given word is what the word decodes to. -/
theorem decodeWord_of_encode_eq {op : Word} {i : Instr} (he : encode i = op) (hwf : i.wf = true) :
    decodeWord op = .ok i :=
  he ▸ decodeWord_encode hwf

/-- Settles O6: the word by `decodeWord_encode`, the bytes because they make up that word. -/
theorem decodeOfEncodeIsIdentity : Obligations.DecodeOfEncodeIsIdentity := by
  intro i h
  have hw := decodeWord_encode h
  refine ⟨hw, fun rest => (decode_pair_ok_iff _ _ rest i).mpr ?_⟩
  rwa [wordOfBytes_hi_lo]

/-! ## What the decoder answers (R65, R66) -/

/-- The table of R66 in the fields of the decoder. -/
theorem unrecognised_iff (op : Word) :
    unrecognised op ↔
      ((opClass op = 0x5#4 ∨ opClass op = 0x9#4) ∧ opN op ≠ 0#4)
      ∨ (opClass op = 0x8#4 ∧ opN op ∈ [0x8#4, 0x9, 0xA, 0xB, 0xC, 0xD, 0xF])
      ∨ (opClass op = 0xE#4 ∧ opKk op ∉ [0x9E#8, 0xA1])
      ∨ (opClass op = 0xF#4 ∧ opKk op ∉ [0x07#8, 0x0A, 0x15, 0x18, 0x1E, 0x29, 0x33, 0x55, 0x65]) :=
  Iff.rfl

/-- No word of an instruction stands in the table of R66. -/
theorem not_unrecognised_encode (i : Instr) : ¬ unrecognised (encode i) := by
  rw [unrecognised_iff]
  cases i with
  | cls | ret => decide
  | _ => simp [encode]

/-- What a path of the decoder may answer on `op`: an instruction whose word is `op`, or none for a word of R66. -/
def DecodeSound (op : Word) : Option Instr → Prop
  | some i => encode i = op ∧ i.wf = true
  | none => unrecognised op

section
variable {op : Word}

/-- Class 0, in the order of R65: `CLS` and `RET` by their whole words, then `SYS`. -/
theorem decodeClass0_sound (hc : opClass op = 0x0) : DecodeSound op (some (decodeClass0 op)) := by
  have hword : encode (.sys (opNnn op)) = op := formatNNN_of_class hc
  unfold decodeClass0
  split
  · next hcls => exact ⟨hcls.symm, rfl⟩
  · next hcls =>
    split
    · next hret => exact ⟨hret.symm, rfl⟩
    · next hret => exact ⟨hword, (wf_sys_iff _).mpr (hword.symm ▸ ⟨hcls, hret⟩)⟩

/-- Class 8: the nine values of `n` that R64 gives, and the seven that R66 lists. -/
theorem decodeClass8_sound (hc : opClass op = 0x8) : DecodeSound op (decodeClass8 op) := by
  unfold decodeClass8
  split
  case h_10 =>
    have hn : opN op ∈ [0x8#4, 0x9, 0xA, 0xB, 0xC, 0xD, 0xF] := by
      simp only [imp_false, List.mem_cons, List.not_mem_nil, or_false] at *
      bv_omega
    exact .inr (.inl ⟨hc, hn⟩)
  all_goals
    next hn => exact ⟨formatXYN_of_class_n hc (BitVec.eq_of_toNat_eq hn), rfl⟩

/-- Class E: the two values of `kk` that R64 gives, and all others. -/
theorem decodeClassE_sound (hc : opClass op = 0xE) : DecodeSound op (decodeClassE op) := by
  unfold decodeClassE
  split
  case h_3 =>
    have hk : opKk op ∉ [0x9E#8, 0xA1] := by simp_all [BitVec.toNat_eq]
    exact .inr (.inr (.inl ⟨hc, hk⟩))
  all_goals
    next hk => exact ⟨formatXKK_of_class_kk hc (BitVec.eq_of_toNat_eq hk), rfl⟩

/-- Class F after the key wait: the eight values of `kk` that R64 gives, and all others. -/
theorem decodeClassF_sound (hc : opClass op = 0xF) (hwait : opKk op ≠ 0x0A) : DecodeSound op (decodeClassF op) := by
  unfold decodeClassF
  split
  case h_9 =>
    have hk : opKk op ∉ [0x07#8, 0x0A, 0x15, 0x18, 0x1E, 0x29, 0x33, 0x55, 0x65] := by simp_all [BitVec.toNat_eq]
    exact .inr (.inr (.inr ⟨hc, hk⟩))
  all_goals
    next hk => exact ⟨formatXKK_of_class_kk hc (BitVec.eq_of_toNat_eq hk), rfl⟩

/-- The dispatch on the class; case `h_k` is class `k - 1`. -/
theorem decodeMain_sound (hwait : ¬ (opClass op = 0xF ∧ opKk op = 0x0A)) : DecodeSound op (decodeMain op) := by
  unfold decodeMain
  split
  case h_1 hc => exact decodeClass0_sound (BitVec.eq_of_toNat_eq hc)
  case h_2 hc | h_3 hc | h_11 hc | h_12 hc => exact ⟨formatNNN_of_class (BitVec.eq_of_toNat_eq hc), rfl⟩
  case h_4 hc | h_5 hc | h_7 hc | h_8 hc | h_13 hc => exact ⟨formatXKK_of_class (BitVec.eq_of_toNat_eq hc), rfl⟩
  case h_6 hc =>
    split
    · next hn => exact ⟨formatXYN_of_class_n (BitVec.eq_of_toNat_eq hc) hn, rfl⟩
    · next hn => exact .inl ⟨.inl (BitVec.eq_of_toNat_eq hc), hn⟩
  case h_9 hc => exact decodeClass8_sound (BitVec.eq_of_toNat_eq hc)
  case h_10 hc =>
    split
    · next hn => exact ⟨formatXYN_of_class_n (BitVec.eq_of_toNat_eq hc) hn, rfl⟩
    · next hn => exact .inl ⟨.inr (BitVec.eq_of_toNat_eq hc), hn⟩
  case h_14 hc => exact ⟨formatXYN_of_class (BitVec.eq_of_toNat_eq hc), rfl⟩
  case h_15 hc => exact decodeClassE_sound (BitVec.eq_of_toNat_eq hc)
  case h_16 =>
    have hc : opClass op = 0xF := by
      simp only [imp_false] at *
      bv_omega
    exact decodeClassF_sound hc fun hk => hwait ⟨hc, hk⟩

end

/-- Everything the decoder can answer: the instruction whose word this is, or the rejection of a word of R66. -/
theorem decodeWord_cases (op : Word) :
    (∃ i, decodeWord op = .ok i ∧ encode i = op ∧ i.wf = true) ∨
    (decodeWord op = .error (.unrecognised op) ∧ unrecognised op) := by
  by_cases hwait : opClass op = 0xF ∧ opKk op = 0x0A
  · exact .inl ⟨.ldVxK (opX op), if_pos hwait, formatXKK_of_class_kk hwait.1 hwait.2, rfl⟩
  · have hsound := decodeMain_sound hwait
    unfold decodeWord
    rw [if_neg hwait]
    cases hm : decodeMain op with
    | some i => exact .inl ⟨i, rfl, by rwa [hm] at hsound⟩
    | none => exact .inr ⟨rfl, by rwa [hm] at hsound⟩

/-- Settles O7: of the two answers of the decoder the first carries the statement. -/
theorem encodeOfDecodeIsIdentity : Obligations.EncodeOfDecodeIsIdentity := by
  intro op i h
  obtain ⟨j, hj, hword⟩ | ⟨herr, -⟩ := decodeWord_cases op
  · cases hj.symm.trans h
    exact hword
  · cases herr.symm.trans h

/-- The rejected words are those of R66. -/
theorem decodeWord_rejects_iff (op : Word) : (∀ i, decodeWord op ≠ .ok i) ↔ unrecognised op := by
  constructor
  · intro h
    obtain ⟨i, hi, -⟩ | ⟨-, hu⟩ := decodeWord_cases op
    · exact absurd hi (h i)
    · exact hu
  · intro hu i hi
    obtain ⟨rfl, -⟩ := encodeOfDecodeIsIdentity op i hi
    exact not_unrecognised_encode i hu

/-- In Running a rejected word makes the step the reported no-op (R66). -/
theorem step_of_unrecognised {s : State} (hrun : s.mode = .running) (hpc : inFetchWindow s.pc)
    (hu : unrecognised s.fetchOp) : step s = .next (nopState .unknownOpcode s.fetchOp s) := by
  have hno := (decodeWord_rejects_iff _).mpr hu
  obtain ⟨hm, -⟩ | ⟨-, hout, -⟩ | ⟨i, -, -, hi, -⟩ | ⟨-, -, -, h⟩ | ⟨hm, -⟩ := step_cases s
  · cases hrun.symm.trans hm
  · exact absurd hpc hout
  · exact absurd hi (hno i)
  · exact h
  · cases hrun.symm.trans hm

/-- Settles O9: the rejected words by the answers of the decoder, the step by its cases. -/
theorem unrecognisedWordsAreReportedNops : Obligations.UnrecognisedWordsAreReportedNops :=
  ⟨decodeWord_rejects_iff, fun _ => step_of_unrecognised⟩

/-! ## The opcode map (R64) -/

/-- A field that the mask covers is the field of the match. -/
theorem field_of_masked {op mask p : Word} {start len : Nat} (h : op &&& mask = p)
    (hm : mask.extractLsb' start len = BitVec.allOnes len) : op.extractLsb' start len = p.extractLsb' start len := by
  rw [← h, BitVec.extractLsb'_and, hm, BitVec.and_allOnes]

/-- The instruction a row reads off a word it selects is a well-formed one with that word. -/
def RowSound (row : OpcodeRow) : Prop :=
  ∀ op, OpcodeRow.selects row op → encode (row.read op) = op ∧ (row.read op).wf = true

section
variable {p : Word}

/-- A row of format NNN. -/
theorem nnnRow_sound (f : Addr → Instr) (hf : ∀ nnn, encode (f nnn) = formatNNN (opClass p) nnn ∧ (f nnn).wf = true) :
    RowSound ⟨0xF000, p, fun op => f (op.extractLsb' 0 12)⟩ :=
  fun _ ⟨(hmask : _ &&& 0xF000 = p), _⟩ =>
    ⟨(hf _).1.trans (formatNNN_of_class (field_of_masked hmask rfl)), (hf _).2⟩

/-- A row of format XKK. -/
theorem xkkRow_sound (f : RegIx → Byte → Instr)
    (hf : ∀ x kk, encode (f x kk) = formatXKK (opClass p) x kk ∧ (f x kk).wf = true) :
    RowSound ⟨0xF000, p, fun op => f (op.extractLsb' 8 4) (op.extractLsb' 0 8)⟩ :=
  fun _ ⟨(hmask : _ &&& 0xF000 = p), _⟩ =>
    ⟨(hf _ _).1.trans (formatXKK_of_class (field_of_masked hmask rfl)), (hf _ _).2⟩

/-- A row of format XYN whose sub-opcode is `n`. -/
theorem xyRow_sound (f : RegIx → RegIx → Instr)
    (hf : ∀ x y, encode (f x y) = formatXYN (opClass p) x y (opN p) ∧ (f x y).wf = true) :
    RowSound ⟨0xF00F, p, fun op => f (op.extractLsb' 8 4) (op.extractLsb' 4 4)⟩ :=
  fun _ ⟨(hmask : _ &&& 0xF00F = p), _⟩ =>
    ⟨(hf _ _).1.trans (formatXYN_of_class_n (field_of_masked hmask rfl) (field_of_masked hmask rfl)), (hf _ _).2⟩

/-- A row of format XSUB. -/
theorem xsubRow_sound (f : RegIx → Instr)
    (hf : ∀ x, encode (f x) = formatXKK (opClass p) x (opKk p) ∧ (f x).wf = true) :
    RowSound ⟨0xF0FF, p, fun op => f (op.extractLsb' 8 4)⟩ :=
  fun _ ⟨(hmask : _ &&& 0xF0FF = p), _⟩ =>
    ⟨(hf _).1.trans (formatXKK_of_class_kk (field_of_masked hmask rfl) (field_of_masked hmask rfl)), (hf _).2⟩

/-- A row of one word. -/
theorem wordRow_sound (i : Instr) (hi : encode i = p ∧ i.wf = true) : RowSound ⟨0xFFFF, p, fun _ => i⟩ :=
  fun _ h => ⟨hi.1.trans (h.1.symm.trans BitVec.and_allOnes), hi.2⟩

end

/-- The row of `SYS`, which the words of `CLS` and `RET` do not reach (R65). -/
theorem sysRow_sound : RowSound ⟨0xF000, 0x0000, fun op => .sys (op.extractLsb' 0 12)⟩ := by
  intro op h
  have hword : encode (.sys (opNnn op)) = op := formatNNN_of_class (field_of_masked h.1 rfl)
  have hne := h.2.resolve_left (by decide)
  exact ⟨hword, (wf_sys_iff _).mpr (hword.symm ▸ hne)⟩

/-- The row of `DRW`, whose `n` is an operand. -/
theorem drwRow_sound :
    RowSound ⟨0xF000, 0xD000, fun op => .drw (op.extractLsb' 8 4) (op.extractLsb' 4 4) (op.extractLsb' 0 4)⟩ :=
  fun _ h => ⟨formatXYN_of_class (field_of_masked h.1 rfl), rfl⟩

theorem opcodeRows1_sound : ∀ row ∈ opcodeRows1, RowSound row := by
  simp only [opcodeRows1, List.forall_mem_cons]
  exact ⟨sysRow_sound, wordRow_sound .cls ⟨rfl, rfl⟩, wordRow_sound .ret ⟨rfl, rfl⟩,
    nnnRow_sound .jp fun _ => ⟨rfl, rfl⟩, nnnRow_sound .call fun _ => ⟨rfl, rfl⟩,
    xkkRow_sound .seVxKk fun _ _ => ⟨rfl, rfl⟩, xkkRow_sound .sneVxKk fun _ _ => ⟨rfl, rfl⟩,
    xyRow_sound .seVxVy fun _ _ => ⟨rfl, rfl⟩,
    xkkRow_sound .ldVxKk fun _ _ => ⟨rfl, rfl⟩, xkkRow_sound .addVxKk fun _ _ => ⟨rfl, rfl⟩,
    List.forall_mem_nil _⟩

theorem opcodeRows2_sound : ∀ row ∈ opcodeRows2, RowSound row := by
  simp only [opcodeRows2, List.forall_mem_cons]
  exact ⟨xyRow_sound .ldVxVy fun _ _ => ⟨rfl, rfl⟩, xyRow_sound .orVxVy fun _ _ => ⟨rfl, rfl⟩,
    xyRow_sound .andVxVy fun _ _ => ⟨rfl, rfl⟩, xyRow_sound .xorVxVy fun _ _ => ⟨rfl, rfl⟩,
    xyRow_sound .addVxVy fun _ _ => ⟨rfl, rfl⟩, xyRow_sound .subVxVy fun _ _ => ⟨rfl, rfl⟩,
    xyRow_sound .shrVx fun _ _ => ⟨rfl, rfl⟩, xyRow_sound .subnVxVy fun _ _ => ⟨rfl, rfl⟩,
    xyRow_sound .shlVx fun _ _ => ⟨rfl, rfl⟩, xyRow_sound .sneVxVy fun _ _ => ⟨rfl, rfl⟩,
    List.forall_mem_nil _⟩

theorem opcodeRows3_sound : ∀ row ∈ opcodeRows3, RowSound row := by
  simp only [opcodeRows3, List.forall_mem_cons]
  exact ⟨nnnRow_sound .ldI fun _ => ⟨rfl, rfl⟩, nnnRow_sound .jpV0 fun _ => ⟨rfl, rfl⟩,
    xkkRow_sound .rnd fun _ _ => ⟨rfl, rfl⟩, drwRow_sound,
    xsubRow_sound .skp fun _ => ⟨rfl, rfl⟩, xsubRow_sound .sknp fun _ => ⟨rfl, rfl⟩,
    xsubRow_sound .ldVxDt fun _ => ⟨rfl, rfl⟩, xsubRow_sound .ldVxK fun _ => ⟨rfl, rfl⟩,
    xsubRow_sound .ldDtVx fun _ => ⟨rfl, rfl⟩, xsubRow_sound .ldStVx fun _ => ⟨rfl, rfl⟩,
    xsubRow_sound .addIVx fun _ => ⟨rfl, rfl⟩, xsubRow_sound .ldFVx fun _ => ⟨rfl, rfl⟩,
    xsubRow_sound .ldBVx fun _ => ⟨rfl, rfl⟩, xsubRow_sound .ldMemVx fun _ => ⟨rfl, rfl⟩,
    xsubRow_sound .ldVxMem fun _ => ⟨rfl, rfl⟩, List.forall_mem_nil _⟩

/-- Settles O8: each row reads off an instruction with the word it selects, which decodes to it. -/
theorem opcodeMapRowsDecode : Obligations.OpcodeMapRowsDecode := by
  intro row hrow op hsel
  have hsound : RowSound row := by
    obtain (h | h) | h := (List.mem_append.trans (or_congr_left List.mem_append)).mp hrow
    · exact opcodeRows1_sound row h
    · exact opcodeRows2_sound row h
    · exact opcodeRows3_sound row h
  obtain ⟨he, hwf⟩ := hsound op hsel
  exact decodeWord_of_encode_eq he hwf

/-- Settles O5: the fifteen words, run through the decoder. -/
theorem specWordsDecode : Obligations.SpecWordsDecode :=
  ⟨rfl, rfl, rfl, rfl, rfl, rfl, rfl, rfl, rfl, rfl, rfl, rfl, rfl, rfl, rfl⟩

/-! ## Progress (30_encoding.md R67, 40_step_and_control.md R80) -/

/-- A checked instruction answers a next state on either side of its check. -/
theorem ite_next {c : Prop} [Decidable c] (u v : State) :
    ∃ t, (if c then .next u else .next v : StepResult) = .next t := by
  split
  · exact ⟨u, rfl⟩
  · exact ⟨v, rfl⟩

/-- Outside Halted every instruction answers a next state. -/
theorem exec_next {s : State} (i : Instr) (hm : s.mode ≠ .halted) : ∃ t, exec i s = .next t := by
  cases i with
  | ret =>
    change ∃ t, execRet s = .next t
    unfold execRet
    split <;> exact ⟨_, rfl⟩
  | call nnn =>
    change ∃ t, execCall nnn s = .next t
    unfold execCall
    split <;> exact ⟨_, rfl⟩
  | drw | ldBVx | ldMemVx | ldVxMem => exact ite_next _ _
  | ldVxK x =>
    change ∃ t, execLdVxK x s = .next t
    unfold execLdVxK
    split
    · exact ⟨_, rfl⟩
    · split <;> exact ⟨_, rfl⟩
    · next h => exact absurd h hm
  | _ => exact ⟨_, rfl⟩

/-- Settles O56: of the outcomes of a step the fault needs Halted, and the refusal contradicts the invariant's `waitWord`. -/
theorem stepNeverStopsUnlessHalted : Obligations.StepNeverStopsUnlessHalted := by
  intro s hs hm
  obtain ⟨hhalt, -⟩ | ⟨-, -, h⟩ | ⟨i, -, -, -, -, h⟩ | ⟨-, -, -, h⟩ | ⟨hwait, -, hother, -⟩ := step_cases s
  case inl => exact absurd hhalt hm
  case inr.inl => exact ⟨_, h⟩
  case inr.inr.inl => exact h ▸ exec_next i hm
  case inr.inr.inr.inl => exact ⟨_, h⟩
  case inr.inr.inr.inr =>
    obtain ⟨-, x, hx⟩ := hs.waitWord hwait
    exact absurd hx (hother x)

end Sys2Proof.Proofs
end

section
/-! PROOFS. The family of spec/40_step_and_control.md: what a step does before an instruction, the control transfers, and the
table of R86. A control transfer that answers is described by `exec_pc` and `exec_effect`; the two stack instructions are run
once for each state of the stack, and a `RET` after a `CALL` is the one run on what the other leaves. -/

namespace Sys2Proof.Proofs

open Sys2Proof Sys2Proof.Machine Sys2Proof.Safety

/-! ## Before an instruction (40_step_and_control.md R80 to R85) -/

/-- Bytes that decode to an instruction begin with its word, whatever bytes are handed back. -/
theorem decodeWord_of_decode_pair {hi lo : Byte} {tail rest : List Byte} {i : Instr}
    (h : decode (hi :: lo :: tail) = .ok (i, rest)) : decodeWord (wordOfBytes hi lo) = .ok i := by
  rw [decode_pair] at h
  cases hw : decodeWord (wordOfBytes hi lo) with
  | ok j => rw [hw] at h; cases h; rfl
  | error e => rw [hw] at h; cases h

/-- Settles O1: in the window the fetched word decides, and the refusal of R85 needs a wait and another instruction. -/
theorem stepRunsDecodedInstruction : Obligations.StepRunsDecodedInstruction := by
  intro s i rest hhalt hpc hdec hmode
  have hi : decodeWord s.fetchOp = .ok i := decodeWord_of_decode_pair hdec
  have hdispatch : ¬ (s.mode = .waitingForKeypress ∧ Instr.isKeyWait i = false) := by
    rintro ⟨hwait, hother⟩
    obtain hrun | ⟨x, rfl⟩ := hmode
    · cases hrun.symm.trans hwait
    · cases hother
  rw [step_in_window hhalt hpc, hi]
  exact if_neg hdispatch

/-- A dispatched instruction never enters Halted. -/
theorem exec_not_halted {i : Instr} {s t : State} (h : exec i s = .next t)
    (hrun : s.mode = .running ∨ ∃ x, i = .ldVxK x) : t.mode ≠ .halted := by
  obtain hm | ⟨hm, -⟩ := exec_mode h hrun
  · simp [hm]
  · simp [hm]

/-- With `PC` in the window no outcome of a step is in Halted (R82). -/
theorem step_not_halted {s t : State} (hpc : inFetchWindow s.pc) (hstep : step s = .next t) : t.mode ≠ .halted := by
  obtain ⟨-, h⟩ | ⟨-, hout, -⟩ | ⟨i, -, -, -, hrun, h⟩ | ⟨hrun, -, -, h⟩ | ⟨-, -, -, h⟩ := step_cases s
  case inl => cases h.symm.trans hstep
  case inr.inl => exact absurd hpc hout
  case inr.inr.inl => exact exec_not_halted (h.symm.trans hstep) hrun
  case inr.inr.inr.inl =>
    cases h.symm.trans hstep
    simp [hrun]
  case inr.inr.inr.inr => cases h.symm.trans hstep

/-- Settles O3: the fatal entry out of the window, the outcomes of the step inside it. -/
theorem onlyPcOutsideWindowIsFatal : Obligations.OnlyPcOutsideWindowIsFatal :=
  fun _ hhalt => ⟨fun hout => step_fatal hhalt (by omega), fun _ => step_not_halted⟩

/-- Settles O4: the law of the step in Halted. -/
theorem haltedDispatchesNoStep : Obligations.HaltedDispatchesNoStep :=
  fun _ => step_halted

/-! ## `CALL` and `RET` on a known stack (R89, R91) -/

section
variable {s u : State} {p : Word}

theorem exec_call_of_push (nnn : Addr) (h : s.push s.pc = some u) :
    exec (.call nnn) s = .next (u.jump (zextAddr nnn)) := by
  change execCall nnn s = _
  rw [execCall, h]

theorem exec_call_full (nnn : Addr) (h : s.push s.pc = none) :
    exec (.call nnn) s = .next (nopState .stackOverflow (formatNNN 0x2 nnn) s) := by
  change execCall nnn s = _
  rw [execCall, h]
  rfl

theorem exec_ret_of_pop (h : s.pop = some (p, u)) : exec .ret s = .next (u.jump (p + 2)) := by
  change execRet s = _
  rw [execRet, h]

theorem exec_ret_empty (h : s.pop = none) : exec .ret s = .next (nopState .stackUnderflow 0x00EE s) := by
  change execRet s = _
  rw [execRet, h]
  rfl

/-- An operand of 12 bits keeps its value as an address of 16. -/
theorem toNat_zextAddr (nnn : Addr) : (zextAddr nnn).toNat = nnn.toNat :=
  BitVec.toNat_setWidth_of_le (by decide)

/-- `CALL` with room on the stack: its own address on top, the jump, and nothing else. -/
theorem exec_call_pushes (nnn : Addr) (hlt : s.sp.val < 16) :
    ∃ t, exec (.call nnn) s = .next t ∧
      (∀ n : Fin 16, n.val = s.sp.val → t.stk[n] = s.pc) ∧ t.sp.val = s.sp.val + 1 ∧ t.pc.toNat = nnn.toNat ∧
      Keeps { sp := true, entries := [s.sp.val] } s t := by
  have hpush := State.push_of_lt s.pc hlt
  have eff := (Effect.refl { sp := true, entries := [s.sp.val] } s).push rfl (List.mem_singleton_self _) hpush
  refine ⟨_, exec_call_of_push nnn hpush, fun n hn => ?_, rfl, toNat_zextAddr nnn, (eff.jump _).toKeeps⟩
  simp [hn]

/-- `RET` with an entry on top: `PC` two above it, one entry less, and nothing else. -/
theorem exec_ret_pops {n : Fin 16} (hn : s.sp.val = n.val + 1) :
    ∃ t, exec .ret s = .next t ∧ t.sp.val = n.val ∧ t.pc = s.stk[n] + 2 ∧ Keeps { sp := true } s t := by
  have hpop := State.pop_of_eq (n := n.val) (by omega) (Fin.ext hn)
  have eff := (Effect.refl { sp := true } s).pop rfl hpop
  exact ⟨_, exec_ret_of_pop hpop, rfl, rfl, (eff.jump _).toKeeps⟩

end

/-- Settles O12: `CALL` by the room on the stack. -/
theorem callPushesItsOwnAddress : Obligations.CallPushesItsOwnAddress :=
  fun nnn _ =>
    ⟨decodeWord_encode (i := .call nnn) rfl, exec_call_pushes nnn,
      fun hfull => exec_call_full nnn (State.push_full _ hfull.not_lt)⟩

/-- Settles O13: `RET` by the depth of the stack. -/
theorem retPopsAndAdvances : Obligations.RetPopsAndAdvances :=
  fun _ =>
    ⟨decodeWord_encode (i := .ret) rfl, fun _ => exec_ret_pops, fun hempty => exec_ret_empty (State.pop_empty hempty)⟩

/-- Settles O14: the entry that `exec_call_pushes` leaves on top is the one that `exec_ret_pops` hands back. -/
theorem retResumesAfterCall : Obligations.RetResumesAfterCall := by
  intro nnn s t u hlt hcall hsp hstk
  obtain ⟨t', hcall', hentry, hdepth, -⟩ := exec_call_pushes nnn hlt
  cases hcall.symm.trans hcall'
  obtain ⟨w, hret, hwsp, hwpc, hkeeps⟩ := exec_ret_pops (s := u) (n := ⟨s.sp.val, hlt⟩) (hsp ▸ hdepth)
  refine ⟨w, hret, ?_, Fin.ext hwsp, hkeeps⟩
  rw [hwpc, hstk, hentry _ rfl]

/-! ## Skips and jumps (R90, R92 to R96) -/

/-- A well-formed instruction that answers a next state is read from its own word and follows the tables of R86 and R27. -/
theorem decodes_and_follows_tables {i : Instr} {s t : State} (hwf : i.wf = true) (h : exec i s = .next t) :
    decodeWord (encode i) = .ok i ∧ ∃ u, exec i s = .next u ∧ u.pc = pcAfter i s ∧ Keeps (footprintOf i s) s u :=
  ⟨decodeWord_encode hwf, t, h, exec_pc h, (exec_effect h).toKeeps⟩

/-- Settles O15: the rows of the four skips in the tables. -/
theorem registerSkips : Obligations.RegisterSkips :=
  fun x y kk _ =>
    ⟨decodes_and_follows_tables (i := .seVxKk x kk) rfl rfl, decodes_and_follows_tables (i := .sneVxKk x kk) rfl rfl,
      decodes_and_follows_tables (i := .seVxVy x y) rfl rfl, decodes_and_follows_tables (i := .sneVxVy x y) rfl rfl⟩

/-- The offset sum of `JP V0, nnn` stays below 0x10FF and is exact (R96). -/
theorem toNat_zextAddr_add (nnn : Addr) (b : Byte) :
    (zextAddr nnn + b.setWidth 16).toNat = nnn.toNat + b.toNat := by
  have hb : (b.setWidth 16).toNat = b.toNat := BitVec.toNat_setWidth_of_le (by decide)
  rw [BitVec.toNat_add, toNat_zextAddr, hb]
  omega

/-- Settles O11: the two targets as numbers; the rest is the footprint. -/
theorem jumpsSetPc : Obligations.JumpsSetPc :=
  fun nnn s =>
    ⟨⟨decodeWord_encode (i := .jp nnn) rfl, s.jump (zextAddr nnn), rfl, toNat_zextAddr nnn,
        (exec_effect (i := .jp nnn) rfl).toKeeps⟩,
      ⟨decodeWord_encode (i := .jpV0 nnn) rfl, s.jump (zextAddr nnn + (s.reg 0).setWidth 16), rfl,
        toNat_zextAddr_add nnn (s.reg 0), (exec_effect (i := .jpV0 nnn) rfl).toKeeps⟩⟩

/-- Settles O16: the final `PC` of every instruction. -/
theorem programCounterFollowsAdvanceTable : Obligations.ProgramCounterFollowsAdvanceTable :=
  fun _ _ _ => exec_pc

/-! ## `SYS` (R88) -/

/-- Settles O10: the word of a well-formed `SYS` decodes to it, and the no-op is its only outcome. -/
theorem sysIsReportedNop : Obligations.SysIsReportedNop := by
  intro nnn s
  refine ⟨fun hcls hret => decodeWord_encode (i := .sys nnn) ?_, rfl⟩
  simpa [Instr.wf, Addr.sysOperand] using And.intro hcls hret

end Sys2Proof.Proofs
end

section
/-! PROOFS. The family of spec/41_alu.md. Every instruction of it is one register write, without or with a flag
(`writeNoFlag`, `writeWithFlag`), followed by `PC + 2`: what a register then holds is said once for each write, the results and
flags of R112 are described as numbers, and the frame of each instruction is its footprint (`exec_effect`). -/

namespace Sys2Proof.Proofs

open Sys2Proof Sys2Proof.Machine Sys2Proof.Safety

/-! ## The written register and `VF` (41_alu.md R113) -/

section
variable (s : State) (x : RegIx) (b : Byte) (flag : Bool)

@[simp] theorem reg_writeNoFlag_same : (s.writeNoFlag x b).reg x = b := by
  rw [State.reg_writeNoFlag, if_pos rfl]

/-- The result stays unless the flag replaces it. -/
theorem reg_writeWithFlag_same {x : RegIx} (hx : x ≠ 0xF) : (s.writeWithFlag x b flag).reg x = b := by
  rw [State.reg_writeWithFlag, if_neg (show x ≠ vf from hx), if_pos rfl]

/-- The flag is written last, also over the result. -/
@[simp] theorem reg_writeWithFlag_vf : (s.writeWithFlag x b flag).reg 0xF = flagByte flag := by
  rw [State.reg_writeWithFlag, if_pos (show 0xF = vf from rfl)]

end

/-! ## Results and flags as numbers (R112) -/

section
variable (a b : Byte)

theorem toNat_addResult : (addResult a b).toNat = (a.toNat + b.toNat) % 256 := BitVec.toNat_ofNat _ _

theorem flagByte_addCarry : flagByte (addCarry a b) = if a.toNat + b.toNat > 255 then 1 else 0 := by
  simp [flagByte, addCarry]

/-- The difference with the non-negative `mod`. -/
theorem toNat_subResult : ((subResult a b).toNat : Int) = (a.toNat - b.toNat : Int) % 256 := by
  rw [subResult, BitVec.toNat_ofInt]
  omega

theorem toNat_shrResult : (shrResult a).toNat = a.toNat / 2 := by
  rw [shrResult, BitVec.toNat_ofNat]
  omega

theorem toNat_shlResult : (shlResult a).toNat = 2 * a.toNat % 256 := BitVec.toNat_ofNat _ _

/-- A bit of a byte, as the flag byte it becomes. -/
theorem toNat_flagByte_getLsbD (k : Nat) : (flagByte (a.getLsbD k)).toNat = a.toNat / 2 ^ k % 2 := by
  rw [BitVec.getLsbD, Nat.testBit_eq_decide_div_mod_eq]
  obtain h | h := Nat.mod_two_eq_zero_or_one (a.toNat / 2 ^ k)
  · simp [flagByte, h]
  · simp [flagByte, h]

theorem toNat_flagByte_shrOut : (flagByte (shrOut a)).toNat = a.toNat % 2 := by
  rw [shrOut, toNat_flagByte_getLsbD, pow_zero, Nat.div_one]

/-- The bit out is bit 7, and there is no bit above it. -/
theorem toNat_flagByte_shlOut : (flagByte (shlOut a)).toNat = a.toNat / 128 := by
  have hbit := toNat_flagByte_getLsbD a 7
  rw [shlOut]
  omega

end

section
variable {a b : Byte} (eqFlag : Bool)

theorem subFlag_of_gt (h : a.toNat > b.toNat) : subFlag eqFlag a b = true := if_pos h

theorem subFlag_of_lt (h : a.toNat < b.toNat) : subFlag eqFlag a b = false := by
  have hne : a ≠ b := by rintro rfl; exact h.false
  rw [subFlag, if_neg h.not_gt, if_neg hne]

/-- Equal operands give the open parameter (R107, C2). -/
theorem subFlag_self (a : Byte) : subFlag eqFlag a a = eqFlag := by
  rw [subFlag, if_neg (lt_irrefl _), if_pos rfl]

end

/-! ## Loads, copy, logic (R100 to R105) -/

/-- Settles O17: both write their result with `writeNoFlag`. -/
theorem immediateLoadAndAdd : Obligations.ImmediateLoadAndAdd := by
  intro x kk s
  refine ⟨⟨decodeWord_encode (i := .ldVxKk x kk) rfl, s.writeNoFlag x _, rfl, ?_, rfl,
      (exec_effect (i := .ldVxKk x kk) rfl).toKeeps⟩,
    ⟨decodeWord_encode (i := .addVxKk x kk) rfl, s.writeNoFlag x _, rfl, ?_, rfl,
      (exec_effect (i := .addVxKk x kk) rfl).toKeeps⟩⟩
  · exact reg_writeNoFlag_same s x kk
  · rw [reg_writeNoFlag_same, toNat_addResult]

/-- Settles O18: the four write their result with `writeNoFlag`, the logic ones bit by bit. -/
theorem copyAndLogic : Obligations.CopyAndLogic := by
  intro x y s
  refine ⟨⟨decodeWord_encode (i := .ldVxVy x y) rfl, s.writeNoFlag x _, rfl, ?_, rfl,
      (exec_effect (i := .ldVxVy x y) rfl).toKeeps⟩,
    ⟨decodeWord_encode (i := .orVxVy x y) rfl, s.writeNoFlag x _, rfl, fun b => ?_, rfl,
      (exec_effect (i := .orVxVy x y) rfl).toKeeps⟩,
    ⟨decodeWord_encode (i := .andVxVy x y) rfl, s.writeNoFlag x _, rfl, fun b => ?_, rfl,
      (exec_effect (i := .andVxVy x y) rfl).toKeeps⟩,
    ⟨decodeWord_encode (i := .xorVxVy x y) rfl, s.writeNoFlag x _, rfl, fun b => ?_, rfl,
      (exec_effect (i := .xorVxVy x y) rfl).toKeeps⟩⟩
  · exact reg_writeNoFlag_same s x (s.reg y)
  · rw [reg_writeNoFlag_same, BitVec.getLsbD_or]
  · rw [reg_writeNoFlag_same, BitVec.getLsbD_and]
  · rw [reg_writeNoFlag_same, BitVec.getLsbD_xor]

/-! ## Arithmetic with a flag (R106 to R110) -/

/-- Settles O19: sum and carry of the operands read before either write. -/
theorem addWritesCarry : Obligations.AddWritesCarry := by
  intro x y s
  refine ⟨decodeWord_encode (i := .addVxVy x y) rfl, s.writeWithFlag x _ _, rfl, fun hx => ?_, ?_, rfl,
    (exec_effect (i := .addVxVy x y) rfl).toKeeps⟩
  · rw [reg_writeWithFlag_same s _ _ hx, toNat_addResult]
  · rw [reg_writeWithFlag_vf, flagByte_addCarry]

/-- What a subtraction `a - b` into `V[x]` leaves in `V[x]` and `VF`: `SUB`, and `SUBN` with the operands exchanged. -/
theorem subtraction_writes (s : State) (x : RegIx) (a b : Byte) (eqFlag : Bool) {t : State}
    (ht : t = s.writeWithFlag x (subResult a b) (subFlag eqFlag a b)) :
    (x ≠ 0xF → ((t.reg x).toNat : Int) = (a.toNat - b.toNat : Int) % 256) ∧
    (a.toNat > b.toNat → t.reg 0xF = 1) ∧ (a.toNat < b.toNat → t.reg 0xF = 0) ∧
    (a = b → t.reg 0xF = if eqFlag then 1 else 0) := by
  subst ht
  rw [reg_writeWithFlag_vf]
  refine ⟨fun hx => ?_, fun hgt => ?_, fun hlt => ?_, fun heq => ?_⟩
  · rw [reg_writeWithFlag_same s _ _ hx, toNat_subResult]
  · rw [subFlag_of_gt eqFlag hgt]; rfl
  · rw [subFlag_of_lt eqFlag hlt]; rfl
  · rw [heq, subFlag_self]; rfl

/-- Settles O20: `subtraction_writes` for the two orders of the operands. -/
theorem subtractionsWriteGreaterFlag : Obligations.SubtractionsWriteGreaterFlag := by
  intro x y s
  obtain ⟨hsub, hsubGt, hsubLt, hsubEq⟩ := subtraction_writes s x (s.reg x) (s.reg y) Config.subEqFlag rfl
  obtain ⟨hsubn, hsubnGt, hsubnLt, hsubnEq⟩ := subtraction_writes s x (s.reg y) (s.reg x) Config.subEqFlag rfl
  exact ⟨⟨decodeWord_encode (i := .subVxVy x y) rfl, _, rfl, hsub, hsubGt, hsubLt, hsubEq, rfl,
      (exec_effect (i := .subVxVy x y) rfl).toKeeps⟩,
    ⟨decodeWord_encode (i := .subnVxVy x y) rfl, _, rfl, hsubn, hsubnGt, hsubnLt, fun heq => hsubnEq heq.symm, rfl,
      (exec_effect (i := .subnVxVy x y) rfl).toKeeps⟩⟩

/-- Settles O21: half or double, and the bit out as a number; `y` occurs in neither. -/
theorem shiftsWriteBitOut : Obligations.ShiftsWriteBitOut := by
  intro x y s
  refine ⟨⟨decodeWord_encode (i := .shrVx x y) rfl, s.writeWithFlag x _ _, rfl, fun hx => ?_, ?_, rfl,
      (exec_effect (i := .shrVx x y) rfl).toKeeps⟩,
    ⟨decodeWord_encode (i := .shlVx x y) rfl, s.writeWithFlag x _ _, rfl, fun hx => ?_, ?_, rfl,
      (exec_effect (i := .shlVx x y) rfl).toKeeps⟩⟩
  · rw [reg_writeWithFlag_same s _ _ hx, toNat_shrResult]
  · rw [reg_writeWithFlag_vf, toNat_flagByte_shrOut]
  · rw [reg_writeWithFlag_same s _ _ hx, toNat_shlResult]
  · rw [reg_writeWithFlag_vf, toNat_flagByte_shlOut]

/-! ## The masked random byte (R111) -/

/-- Settles O22: the mask clears every bit outside `kk`, whatever the draw. -/
theorem randomByteIsMasked : Obligations.RandomByteIsMasked := by
  intro x kk s
  have hreg := reg_writeNoFlag_same { s with draws := s.draws + 1 } x (Config.randByte s.draws &&& kk)
  refine ⟨decodeWord_encode (i := .rnd x kk) rfl, _, rfl, hreg, rfl, fun b hb => ?_, rfl,
    (exec_effect (i := .rnd x kk) rfl).toKeeps⟩
  rw [hreg, BitVec.getLsbD_and, hb, Bool.and_false]

end Sys2Proof.Proofs
end

section
/-! PROOFS. The family of spec/42_index_memory.md. The writes of `I` are described as numbers (R120 to R122). Each of the three
data instructions has one outcome when its last address is inside memory and one when it is not (R126); what the first
leaves in memory or in the registers is read off the laws of `writeBytes`, `storeBlock` and `loadBlock`. -/

namespace Sys2Proof.Proofs

open Sys2Proof Sys2Proof.Machine Sys2Proof.Safety

/-! ## The index register (42_index_memory.md R120 to R122) -/

/-- The sum of `ADD I, Vx` wraps at 16 bits. -/
theorem toNat_add_setWidth (i : Word) (b : Byte) : (i + b.setWidth 16).toNat = (i.toNat + b.toNat) % 65536 := by
  rw [BitVec.toNat_add, BitVec.toNat_setWidth_of_le (by decide)]

/-- The glyph addresses end at 75, far below the modulus. -/
theorem toNat_glyphAddr (b : Byte) : (glyphAddr b).toNat = 5 * (b.toNat % 16) := by
  rw [glyphAddr, BitVec.toNat_ofNat]
  omega

/-- Settles O25: the three values of `I` as numbers; the rest is the footprint. -/
theorem indexRegisterWrites : Obligations.IndexRegisterWrites :=
  fun nnn x s =>
    ⟨⟨decodeWord_encode (i := .ldI nnn) rfl, _, rfl, toNat_zextAddr nnn, rfl,
        (exec_effect (i := .ldI nnn) rfl).toKeeps⟩,
      ⟨decodeWord_encode (i := .addIVx x) rfl, _, rfl, toNat_add_setWidth s.i (s.reg x), rfl,
        (exec_effect (i := .addIVx x) rfl).toKeeps⟩,
      ⟨decodeWord_encode (i := .ldFVx x) rfl, _, rfl, toNat_glyphAddr (s.reg x), rfl,
        (exec_effect (i := .ldFVx x) rfl).toKeeps⟩⟩

/-! ## The range check (42_index_memory.md R126) -/

/-- An access whose last byte is at `I + k` is in range exactly when that byte is inside memory. -/
theorem dataInRange_succ_iff (s : State) (k : Nat) : s.dataInRange (k + 1) = true ↔ s.i.toNat + k ≤ 0xFFF := by
  simp [State.dataInRange_iff]

section
variable {s : State} {x : RegIx}

theorem exec_ldBVx_inRange (h : s.i.toNat + 2 ≤ 0xFFF) :
    exec (.ldBVx x) s =
      .next ({ s with mem := Memory.writeBytes s.mem s.i.toNat (bcdDigits (s.reg x)) } : State).advance :=
  if_pos ((dataInRange_succ_iff s 2).mpr h)

theorem exec_ldBVx_outOfRange (h : 0xFFF < s.i.toNat + 2) :
    exec (.ldBVx x) s = .next (nopState .dataAddrRange (formatXKK 0xF x 0x33) s) :=
  if_neg (mt (dataInRange_succ_iff s 2).mp h.not_ge)

theorem exec_ldMemVx_outOfRange (h : 0xFFF < s.i.toNat + x.toNat) :
    exec (.ldMemVx x) s = .next (nopState .dataAddrRange (formatXKK 0xF x 0x55) s) :=
  if_neg (mt (dataInRange_succ_iff s _).mp h.not_ge)

theorem exec_ldVxMem_inRange (h : s.i.toNat + x.toNat ≤ 0xFFF) :
    exec (.ldVxMem x) s = .next (s.loadBlock (x.toNat + 1)).advance :=
  if_pos ((dataInRange_succ_iff s _).mpr h)

theorem exec_ldVxMem_outOfRange (h : 0xFFF < s.i.toNat + x.toNat) :
    exec (.ldVxMem x) s = .next (nopState .dataAddrRange (formatXKK 0xF x 0x65) s) :=
  if_neg (mt (dataInRange_succ_iff s _).mp h.not_ge)

end

/-! ## The decimal digits (42_index_memory.md R123) -/

/-- The `k`-th of consecutive bytes stands at the `k`-th address. -/
theorem read_writeBytes_getElem (m : Memory) {a : Nat} {bytes : List Byte} (h : a + bytes.length ≤ memSize) {k : Nat}
    (hk : k < bytes.length) : Memory.read (Memory.writeBytes m a bytes) (a + k) = bytes[k] := by
  rw [Memory.read_writeBytes m a bytes h, if_pos (by omega), Nat.add_sub_cancel_left, List.getD_eq_getElem _ _ hk]

/-- The digits of a byte at three consecutive addresses; each is below 256, so storing it as a byte keeps it. -/
theorem toNat_read_writeBytes_bcdDigits (m : Memory) {a : Nat} (b : Byte) (h : a + 2 ≤ 0xFFF) :
    (Memory.read (Memory.writeBytes m a (bcdDigits b)) a).toNat = b.toNat / 100 ∧
    (Memory.read (Memory.writeBytes m a (bcdDigits b)) (a + 1)).toNat = b.toNat / 10 % 10 ∧
    (Memory.read (Memory.writeBytes m a (bcdDigits b)) (a + 2)).toNat = b.toNat % 10 := by
  have hfit : a + (bcdDigits b).length ≤ memSize := Nat.succ_le_succ h
  have hread (k : Nat) (hk : k < 3) :
      Memory.read (Memory.writeBytes m a (bcdDigits b)) (a + k) = (bcdDigits b)[k] :=
    read_writeBytes_getElem m hfit hk
  have hdigit {n : Nat} (hn : n < 256) : (BitVec.ofNat 8 n).toNat = n := Nat.mod_eq_of_lt hn
  refine ⟨?_, ?_, ?_⟩
  · exact (congrArg BitVec.toNat (hread 0 (by decide))).trans (hdigit (by omega))
  · exact (congrArg BitVec.toNat (hread 1 (by decide))).trans (hdigit (by omega))
  · exact (congrArg BitVec.toNat (hread 2 (by decide))).trans (hdigit (by omega))

/-- Settles O26: the stored digits, and the frame by the rule of `writeBytes`. -/
theorem bcdStoresThreeDigits : Obligations.BcdStoresThreeDigits := by
  intro x s
  refine ⟨decodeWord_encode (i := .ldBVx x) rfl, fun h => ?_, exec_ldBVx_outOfRange⟩
  obtain ⟨hhundreds, htens, hones⟩ := toNat_read_writeBytes_bcdDigits s.mem (s.reg x) h
  have eff := (Effect.refl { cells := dataCells s 3 } s).writeBytes (bytes := bcdDigits (s.reg x))
    fun _ => dataAddr_mem_dataCells s
  exact ⟨_, exec_ldBVx_inRange h, hhundreds, htens, hones, rfl, eff.advance.toKeeps⟩

/-! ## Register blocks (42_index_memory.md R124, R125) -/

section
variable {s : State} {x k : RegIx}

/-- `V[k]` is the register that a block dump leaves at `I + k`. -/
theorem read_storeBlock_of_le (h : s.i.toNat + x.toNat ≤ 0xFFF) (hk : k.toNat ≤ x.toNat) :
    Memory.read (s.storeBlock (x.toNat + 1)).mem (s.i.toNat + k.toNat) = s.reg k := by
  rw [read_storeBlock_reg s (Nat.succ_le_succ h) (Nat.lt_succ_of_le hk), blockReg_toNat]

/-- A block load reads `V[k]` from `I + k`. -/
theorem reg_loadBlock_of_le (hk : k.toNat ≤ x.toNat) :
    (s.loadBlock (x.toNat + 1)).reg k = Memory.read s.mem (s.i.toNat + k.toNat) := by
  rw [s.reg_loadBlock (Nat.succ_le_of_lt x.isLt), if_pos (Nat.lt_succ_of_le hk)]
  rfl

end

/-- Settles O27: the dumped bytes by `read_storeBlock_of_le`, the frame by the rule of `storeBlock`. -/
theorem blockDumpStoresRegisters : Obligations.BlockDumpStoresRegisters := by
  intro x s
  refine ⟨decodeWord_encode (i := .ldMemVx x) rfl, fun h => ?_, exec_ldMemVx_outOfRange⟩
  have eff := (Effect.refl { cells := dataCells s (x.toNat + 1) } s).storeBlock fun _ => dataAddr_mem_dataCells s
  exact ⟨_, exec_ldMemVx_inRange h, fun _ => read_storeBlock_of_le h, rfl, eff.advance.toKeeps⟩

/-- Settles O28: the loaded registers by `reg_loadBlock_of_le`, the frame by the rule of `loadBlock`. -/
theorem blockLoadReadsRegisters : Obligations.BlockLoadReadsRegisters := by
  intro x s
  refine ⟨decodeWord_encode (i := .ldVxMem x) rfl, fun h => ?_, exec_ldVxMem_outOfRange⟩
  have hexec := exec_ldVxMem_inRange h
  have eff := (Effect.refl { regs := blockRegs x } s).loadBlock fun _ => blockReg_mem_blockRegs
  exact ⟨_, hexec, fun _ => reg_loadBlock_of_le, exec_pc hexec, eff.advance.toKeeps⟩

/-- Settles O29: the load reads `V[k]` where the dump has left it. -/
theorem blockLoadUndoesBlockDump : Obligations.BlockLoadUndoesBlockDump := by
  intro x s t u h hdump hmem hi
  cases (exec_ldMemVx_inRange h).symm.trans hdump
  have hindex : u.i = s.i := hi
  refine ⟨_, exec_ldVxMem_inRange (hindex.symm ▸ h), fun k hk => ?_⟩
  calc (u.loadBlock (x.toNat + 1)).reg k
      = Memory.read u.mem (u.i.toNat + k.toNat) := reg_loadBlock_of_le hk
    _ = Memory.read (s.storeBlock (x.toNat + 1)).mem (s.i.toNat + k.toNat) := by rw [hmem, hindex]; rfl
    _ = s.reg k := read_storeBlock_of_le h hk

end Sys2Proof.Proofs
end

section
/-! PROOFS. The family of spec/43_display.md. A `DRW` in range has one outcome, the state `drawn`: each covered pixel is inverted
and `VF` tells whether one of them was on, read off `State.drawSprite_spec`. A second draw covers the same pixels, so it
restores them, and it collides where the first has turned a pixel on. A frame is read from the framebuffer `CLS` leaves. -/

namespace Sys2Proof.Proofs

open Sys2Proof Sys2Proof.Machine Sys2Proof.Safety

/-! ## Clear (R130) -/

/-- Settles O32: every pixel of `allOff` is off; the rest is the footprint. -/
theorem clearTurnsEveryPixelOff : Obligations.ClearTurnsEveryPixelOff :=
  fun _ =>
    ⟨decodeWord_encode (i := .cls) rfl, _, rfl, FrameBuffer.pixel_allOff, rfl, rfl,
      (exec_effect (i := .cls) rfl).toKeeps⟩

/-! ## The display frame (60_exceptions.md R173, R174) -/

/-- A dirty frame is packed anew. -/
theorem readDisplayFrame_of_dirty {s : State} (p : Params) (h : s.dirty = true) :
    s.readDisplayFrame p =
      ({ s with packed := packDisplay p.displayTag s.fb, dirty := false }, packDisplay p.displayTag s.fb) :=
  if_pos h

/-- Eight pixels of a cleared framebuffer. -/
theorem group_allOff (r : Fin 32) (g : Fin 8) : FrameBuffer.allOff.group r g = List.replicate 8 false := by
  simp only [FrameBuffer.group, FrameBuffer.pixel_allOff]
  rfl

/-- Past the tag, a frame of the cleared framebuffer holds zeros. -/
theorem displayByte_allOff (tag : Byte) {k : Nat} (hk : k ≠ 0) : displayByte tag FrameBuffer.allOff k = 0 := by
  rw [displayByte, if_neg hk, group_allOff]
  decide

theorem getElem_packDisplay (tag : Byte) (fb : FrameBuffer) (k : Fin 257) :
    (packDisplay tag fb)[k] = displayByte tag fb k :=
  Vector.getElem_ofFn k.isLt

/-- Settles O48: `CLS` marks the frame dirty, so the read packs the cleared framebuffer. -/
theorem frameAfterClearIsZero : Obligations.FrameAfterClearIsZero := by
  intro p s
  refine ⟨_, rfl, ?_, fun n hn => ?_⟩
  · rw [readDisplayFrame_of_dirty p rfl]
    exact getElem_packDisplay _ _ 0
  · rw [readDisplayFrame_of_dirty p rfl]
    exact (getElem_packDisplay _ _ n).trans (displayByte_allOff _ (Nat.ne_of_gt hn))

/-! ## One draw (R131, R132) -/

/-- The state after a `DRW` in range. -/
def drawn (x y : RegIx) (n : Nibble) (s : State) : State :=
  (({ s with fb := (s.drawSprite (s.reg x) (s.reg y) n.toNat).fb, dirty := true } : State).setReg vf
    (flagByte (s.drawSprite (s.reg x) (s.reg y) n.toNat).hit)).advance

section
variable {s : State} {x y : RegIx} {n : Nibble} {r : Fin 32} {c : Fin 64}

theorem exec_drw_inRange (h : spriteInRange s n) : exec (.drw x y n) s = .next (drawn x y n s) :=
  if_pos ((s.dataInRange_iff _).mpr h)

theorem exec_drw_outOfRange (h : ¬ spriteInRange s n) :
    exec (.drw x y n) s = .next (nopState .dataAddrRange (formatXYN 0xD x y n) s) :=
  if_neg (mt (s.dataInRange_iff _).mp h)

/-- The places the model plots are the pixels the sprite covers. -/
theorem mem_spritePlaces_iff_covers :
    (r, c) ∈ s.spritePlaces (s.reg x) (s.reg y) n.toNat ↔ Covers s x y n r c := by
  simp only [State.mem_spritePlaces, Covers, Prod.mk.injEq, Fin.ext_iff]
  rfl

theorem pixel_drawn (r : Fin 32) (c : Fin 64) :
    (drawn x y n s).fb.pixel r c =
      if (r, c) ∈ s.spritePlaces (s.reg x) (s.reg y) n.toNat then !s.fb.pixel r c else s.fb.pixel r c :=
  (s.drawSprite_spec _ _ (by omega)).1 r c

theorem pixel_drawn_of_covers (h : Covers s x y n r c) : (drawn x y n s).fb.pixel r c = !s.fb.pixel r c := by
  rw [pixel_drawn, if_pos (mem_spritePlaces_iff_covers.mpr h)]

theorem pixel_drawn_of_not_covers (h : ¬ Covers s x y n r c) : (drawn x y n s).fb.pixel r c = s.fb.pixel r c := by
  rw [pixel_drawn, if_neg (mt mem_spritePlaces_iff_covers.mp h)]

/-- The hit flag of a draw: a covered pixel was on. -/
theorem hit_drawSprite :
    (s.drawSprite (s.reg x) (s.reg y) n.toNat).hit = true ↔ ∃ r c, Covers s x y n r c ∧ s.fb.pixel r c = true := by
  rw [(s.drawSprite_spec _ _ (by omega)).2, Prod.exists]
  simp only [mem_spritePlaces_iff_covers]

theorem vf_drawn : (drawn x y n s).reg 0xF = flagByte (s.drawSprite (s.reg x) (s.reg y) n.toNat).hit :=
  State.reg_setReg_same _ vf _

theorem vf_drawn_of_collision (h : ∃ r c, Covers s x y n r c ∧ s.fb.pixel r c = true) :
    (drawn x y n s).reg 0xF = 1 := by
  rw [vf_drawn, hit_drawSprite.mpr h]
  rfl

theorem vf_drawn_of_no_collision (h : ¬ ∃ r c, Covers s x y n r c ∧ s.fb.pixel r c = true) :
    (drawn x y n s).reg 0xF = 0 := by
  rw [vf_drawn, Bool.eq_false_iff.mpr (mt hit_drawSprite.mp h)]
  rfl

theorem reg_drawn_of_ne {k : RegIx} (h : k ≠ 0xF) : (drawn x y n s).reg k = s.reg k :=
  State.reg_setReg_other _ _ h

/-- A draw changes `VF`, the framebuffer and `DIRTY`. The footprint of R27 also allows the report of the other outcome. -/
theorem drawn_keeps : Keeps { regs := [0xF], fb := true, dirty := true } s (drawn x y n s) :=
  (((Effect.refl _ s).setFb rfl rfl _).setReg (List.mem_singleton_self _) _).advance.toKeeps

end

/-- Settles O33: `drawn` pixel by pixel, its `VF` and its frame. -/
theorem drawInvertsCoveredPixels : Obligations.DrawInvertsCoveredPixels :=
  fun x y n _ =>
    ⟨decodeWord_encode (i := .drw x y n) rfl, fun h =>
      ⟨_, exec_drw_inRange h, fun _ _ => pixel_drawn_of_covers, fun _ _ => pixel_drawn_of_not_covers,
        vf_drawn_of_collision, vf_drawn_of_no_collision, rfl, rfl, drawn_keeps⟩,
      exec_drw_outOfRange⟩

/-! ## A second draw at the same place (R131, corner cases) -/

section
variable {s : State} {x y : RegIx} {n : Nibble} (hx : x ≠ 0xF) (hy : y ≠ 0xF)
include hx hy

/-- `VF` is no coordinate, so the second draw covers the same pixels. -/
theorem covers_drawn {r : Fin 32} {c : Fin 64} : Covers (drawn x y n s) x y n r c ↔ Covers s x y n r c := by
  unfold Covers
  rw [reg_drawn_of_ne hx, reg_drawn_of_ne hy]
  rfl

theorem pixel_drawn_drawn (r : Fin 32) (c : Fin 64) :
    (drawn x y n (drawn x y n s)).fb.pixel r c = s.fb.pixel r c := by
  by_cases hc : Covers s x y n r c
  · rw [pixel_drawn_of_covers ((covers_drawn hx hy).mpr hc), pixel_drawn_of_covers hc, Bool.not_not]
  · rw [pixel_drawn_of_not_covers (mt (covers_drawn hx hy).mp hc), pixel_drawn_of_not_covers hc]

/-- The second draw collides on the pixels that the first has turned on. -/
theorem collision_drawn_iff :
    (∃ r c, Covers (drawn x y n s) x y n r c ∧ (drawn x y n s).fb.pixel r c = true) ↔
      ∃ r c, Covers s x y n r c ∧ s.fb.pixel r c = false := by
  refine exists₂_congr fun r c => (and_congr_left' (covers_drawn hx hy)).trans (and_congr_right fun hc => ?_)
  rw [pixel_drawn_of_covers hc, Bool.not_eq_true']

end

/-- Settles O34: both draws are in range, and the second undoes and collides as the lemmas above say. -/
theorem drawTwiceRestoresFramebuffer : Obligations.DrawTwiceRestoresFramebuffer := by
  intro x y n s t hx hy h hdraw
  cases (exec_drw_inRange h).symm.trans hdraw
  exact ⟨_, exec_drw_inRange (s := drawn x y n s) h, pixel_drawn_drawn hx hy,
    fun hoff => vf_drawn_of_collision ((collision_drawn_iff hx hy).mpr hoff),
    fun hoff => vf_drawn_of_no_collision (mt (collision_drawn_iff hx hy).mp hoff)⟩

/-- Refutes O35: the sprite is the one-pixel top row 0x20 of the glyph of 1, at address 5 of the reset memory, and the
pixel (0, 2) it covers is on. The first draw turns it off, the second turns it on again and reports `VF = 0`. -/
theorem not_secondDrawAlwaysCollides : ¬ Obligations.SecondDrawAlwaysCollides := by
  intro h
  have hvf := h 1 2 1 { State.reset with i := 5, fb := State.reset.fb.setPixel 0 2 true } _ _ (by decide) (by decide)
    (by decide) rfl rfl ⟨0, 2, 0, by decide, 2, by decide, by decide, by decide, by decide⟩
  exact absurd hvf (by decide)

end Sys2Proof.Proofs
end

section
/-! PROOFS. The family of spec/44_keypad_timers.md. The key skips are rows of the tables of R86 and R27. `LD Vx, K` has one
outcome for each mode and, while waiting, for each answer of `KeyBits.lowest`: the lowest key with an event bit, or none. The
timer instructions are one write followed by `PC + 2`. -/

namespace Sys2Proof.Proofs

open Sys2Proof Sys2Proof.Machine Sys2Proof.Safety

/-! ## Key skips (R140, R141) -/

/-- The tested key is the one the tables of R86 name. -/
theorem eq_setWidth_of_toNat_eq_mod {k : Nibble} {b : Byte} (h : k.toNat = b.toNat % 16) : k = b.setWidth 4 :=
  BitVec.eq_of_toNat_eq (h.trans (BitVec.toNat_setWidth 4 b).symm)

/-- Settles O36: the rows of the two key skips in the tables. -/
theorem keySkips : Obligations.KeySkips := by
  intro x s k hk
  obtain rfl := eq_setWidth_of_toNat_eq_mod hk
  exact ⟨decodes_and_follows_tables (i := .skp x) rfl rfl, decodes_and_follows_tables (i := .sknp x) rfl rfl⟩

/-! ## The key wait (R142) -/

/-- `KeyBits.lowest` answers the key whose bit is set while the bit of every lower key is clear. -/
theorem lowest_eq_some {ks : KeyBits} {k : Nibble} (hk : KeyBits.get ks k = true)
    (hlow : ∀ j : Nibble, j.toNat < k.toNat → KeyBits.get ks j = false) : KeyBits.lowest ks = some k := by
  have hfirst : (List.range 16).find? (KeyBits.get ks ∘ BitVec.ofNat 4) = some k.toNat := by
    refine List.find?_range_eq_some.mpr ⟨by simpa using hk, List.mem_range.mpr k.isLt, fun j hj => ?_⟩
    have hval : (BitVec.ofNat 4 j).toNat = j := Nat.mod_eq_of_lt (hj.trans k.isLt)
    simpa using hlow (BitVec.ofNat 4 j) (hval.symm ▸ hj)
  rw [KeyBits.lowest, List.find?_map, hfirst, Option.map_some, BitVec.ofNat_toNat, BitVec.setWidth_eq]

section
variable {x : RegIx} {s : State}

theorem exec_ldVxK_running (h : s.mode = .running) :
    exec (.ldVxK x) s = .next { s with mode := .waitingForKeypress, keyEvt := KeyBits.clear } := by
  simp only [exec, execLdVxK, h]

theorem exec_ldVxK_event {k : Nibble} (h : s.mode = .waitingForKeypress) (hk : KeyBits.lowest s.keyEvt = some k) :
    exec (.ldVxK x) s = .next (({ s with mode := .running } : State).writeNoFlag x (k.setWidth 8)) := by
  simp only [exec, execLdVxK, h, hk, State.writeNoFlag]

theorem exec_ldVxK_noEvent (h : s.mode = .waitingForKeypress) (hk : KeyBits.lowest s.keyEvt = none) :
    exec (.ldVxK x) s = .next s := by
  simp only [exec, execLdVxK, h, hk]

end

/-- Settles O37: the three outcomes. The footprint of R27 is that of all three, so each frame is its own chain of writes. -/
theorem keyWaitEntersCapturesOrIdles : Obligations.KeyWaitEntersCapturesOrIdles := by
  intro x s
  refine ⟨decodeWord_encode (i := .ldVxK x) rfl, fun hrun => ?enters, fun k hwait hk hlow => ?captures,
    fun hwait hnone => exec_ldVxK_noEvent hwait (KeyBits.lowest_none.mpr hnone)⟩
  case enters =>
    exact ⟨_, exec_ldVxK_running hrun, rfl, KeyBits.get_clear, rfl,
      (((Effect.refl _ s).setMode rfl .waitingForKeypress).setKeyEvt rfl KeyBits.clear).toKeeps⟩
  case captures =>
    refine ⟨_, exec_ldVxK_event hwait (lowest_eq_some hk hlow), ?_, rfl, rfl,
      (((Effect.refl _ s).setMode rfl _).writeNoFlag (List.mem_singleton_self x) _).toKeeps⟩
    rw [reg_writeNoFlag_same, BitVec.toNat_setWidth_of_le (by decide)]

/-! ## Timers (R143 to R145) -/

/-- Settles O38: the written value of each; the rest is the footprint. -/
theorem timerInstructions : Obligations.TimerInstructions :=
  fun x s =>
    ⟨⟨decodeWord_encode (i := .ldVxDt x) rfl, _, rfl, reg_writeNoFlag_same s x s.dt, rfl,
        (exec_effect (i := .ldVxDt x) rfl).toKeeps⟩,
      ⟨decodeWord_encode (i := .ldDtVx x) rfl, _, rfl, rfl, rfl, (exec_effect (i := .ldDtVx x) rfl).toKeeps⟩,
      ⟨decodeWord_encode (i := .ldStVx x) rfl, _, rfl, rfl, rfl, (exec_effect (i := .ldStVx x) rfl).toKeeps⟩⟩

end Sys2Proof.Proofs
end

section
/-! PROOFS. The family of spec/60_exceptions.md. The two loops that R164 prints are the counted loops of the model
(`timerWhile_iff`, `cpuWhile_iff`), so what an `Update` leaves is proved by induction on the printed CPU loop, from what one
step leaves of the clock. The frames and the keypad port are read off their definitions. A step is related to the same step
with another frame cache (`SameButCache`), and the invariant of the host's calls is kept operation by operation. -/

namespace Sys2Proof.Proofs

open Sys2Proof Sys2Proof.Machine Sys2Proof.Safety

/-! ## The timers (60_exceptions.md R163) -/

/-- Settles O39: the laws of the tick, one for each timer. -/
theorem timerTickFloorsAtZero : Obligations.TimerTickFloorsAtZero := by
  intro s
  have hdt := s.timerTick_dt_toNat
  have hst := s.timerTick_st_toNat
  exact ⟨fun _ => by omega, fun h => by simp [h], fun _ => by omega, fun h => by simp [h], rfl⟩

/-- Each of `n` iterations takes one from each timer, floored at 0. -/
theorem timerLoop_timers (p : Params) (n : Nat) (s : State) :
    (s.timerLoop p n).dt.toNat = s.dt.toNat - n ∧ (s.timerLoop p n).st.toNat = s.st.toNat - n := by
  induction n generalizing s with
  | zero => exact ⟨rfl, rfl⟩
  | succ n ih =>
    obtain ⟨hdt, hst⟩ := ih ({ s with accTmr := s.accTmr - p.timebaseHz } : State).timerTick
    rw [State.timerTick_dt_toNat, Nat.sub_sub, Nat.add_comm 1] at hdt
    rw [State.timerTick_st_toNat, Nat.sub_sub, Nat.add_comm 1] at hst
    exact ⟨hdt, hst⟩

/-- Settles O40: the timers by induction on the iterations, debt and frame by `State.timerLoop_eq`. -/
theorem timerLoopCountsDown : Obligations.TimerLoopCountsDown := by
  intro p s n hdebt
  obtain ⟨hdt, hst⟩ := timerLoop_timers p n s
  refine ⟨hdt, hst, ?_, by rw [State.timerLoop_eq]⟩
  rw [State.timerLoop_eq]
  exact Nat.sub_add_cancel hdebt

/-! ## Due periods (R164, R166) -/

section
variable {p : Params} {acc n : Nat}

theorem duePeriods_eq_zero_iff : duePeriods p acc = 0 ↔ acc < p.timebaseHz :=
  Nat.div_eq_zero_iff_lt p.timebaseHz_pos

theorem duePeriods_of_le (h : p.timebaseHz ≤ acc) :
    duePeriods p acc = duePeriods p (acc - p.timebaseHz) + 1 :=
  Nat.div_eq_sub_div p.timebaseHz_pos h

/-- A debt with a period due covers it, and with that period paid the others are due. -/
theorem le_of_duePeriods_eq_succ (h : duePeriods p acc = n + 1) :
    p.timebaseHz ≤ acc ∧ duePeriods p (acc - p.timebaseHz) = n := by
  have hle : p.timebaseHz ≤ acc := Nat.le_of_not_lt fun hlt => by simp [duePeriods_eq_zero_iff.mpr hlt] at h
  exact ⟨hle, Nat.succ.inj ((duePeriods_of_le hle).symm.trans h)⟩

/-- What the due periods leave of a debt. -/
theorem sub_duePeriods_mul (p : Params) (acc : Nat) : acc - duePeriods p acc * p.timebaseHz = acc % p.timebaseHz :=
  Nat.mod_eq_sub_div_mul.symm

end

/-! ## What a step leaves of the clock and of the frame cache (10_state.md R18, R23) -/

/-- No step writes the clock state or `PACKED`, and none clears `DIRTY`. -/
structure LeavesHostState (s t : State) : Prop where
  tLast : t.tLast = s.tLast
  accCpu : t.accCpu = s.accCpu
  accTmr : t.accTmr = s.accTmr
  packed : t.packed = s.packed
  dirty : t.dirty = false → s.dirty = false

theorem exec_leavesHostState {i : Instr} {s t : State} (h : exec i s = .next t) : LeavesHostState s t :=
  have eff := exec_effect h
  ⟨eff.tLast, eff.accCpu, eff.accTmr, eff.packed, fun hd => (eff.frame hd).1⟩

theorem step_leavesHostState {s t : State} (hstep : step s = .next t) : LeavesHostState s t := by
  obtain ⟨-, h⟩ | ⟨-, -, h⟩ | ⟨i, -, -, -, -, h⟩ | ⟨-, -, -, h⟩ | ⟨-, -, -, h⟩ := step_cases s
  case inl => cases h.symm.trans hstep
  case inr.inl => cases h.symm.trans hstep; exact ⟨rfl, rfl, rfl, rfl, id⟩
  case inr.inr.inl => exact exec_leavesHostState (h.symm.trans hstep)
  case inr.inr.inr.inl => cases h.symm.trans hstep; exact ⟨rfl, rfl, rfl, rfl, id⟩
  case inr.inr.inr.inr => cases h.symm.trans hstep

/-- The only step into Halted is the fatal entry (R155). -/
theorem step_into_halted {s t : State} (hstep : step s = .next t) (ht : t.mode = .halted) :
    ¬ inFetchWindow s.pc ∧ t = s.raiseFatal .pcRange := by
  have hpc : ¬ inFetchWindow s.pc := fun hpc => step_not_halted hpc hstep ht
  have hs : s.mode ≠ .halted := fun hs => nomatch (step_halted hs).symm.trans hstep
  exact ⟨hpc, (Host.Outcome.next.inj ((step_fatal hs hpc).symm.trans hstep)).symm⟩

/-! ## The loops the spec prints are the counted loops of the model (R164) -/

section
variable {p : Params} {s t m : State} {n c : Nat} {r : UpdateResult}

theorem timerWhile_iff : TimerWhile p s m ↔ m = s.timerLoop p (duePeriods p s.accTmr) := by
  constructor
  case mp =>
    intro h
    induction h with
    | done hlt => rw [duePeriods_eq_zero_iff.mpr hlt]; rfl
    | tick hle _ ih => rw [duePeriods_of_le hle]; exact ih
  case mpr =>
    rintro rfl
    induction hdue : duePeriods p s.accTmr generalizing s with
    | zero => exact .done (duePeriods_eq_zero_iff.mp hdue)
    | succ n ih =>
      obtain ⟨hle, hrest⟩ := le_of_duePeriods_eq_succ hdue
      exact .tick hle (ih hrest)

/-- One iteration of the CPU loop that answers: its step answers, and it ends the loop in Halted or the loop goes on. -/
theorem cpuLoop_succ_iff :
    s.cpuLoop p (n + 1) c = .next (t, r) ↔
      ∃ u, step { s with accCpu := s.accCpu - p.timebaseHz } = .next u ∧
        ((u.mode = .halted ∧ t = u ∧ r = .fatal u.fault) ∨
          (u.mode ≠ .halted ∧ u.cpuLoop p n (c + 1) = .next (t, r))) := by
  rw [State.cpuLoop]
  cases step { s with accCpu := s.accCpu - p.timebaseHz } with
  | next u =>
    by_cases hm : u.mode = .halted
    · simp [hm, eq_comm]
    · simp [hm]
  | fault f => simp
  | refused e => simp

/-- The step of an iteration pays the period and leaves the others due. -/
theorem duePeriods_accCpu_of_step (hstep : step { s with accCpu := s.accCpu - p.timebaseHz } = .next t) :
    duePeriods p t.accCpu = duePeriods p (s.accCpu - p.timebaseHz) := by
  rw [(step_leavesHostState hstep).accCpu]

theorem cpuWhile_iff : CpuWhile p s c t r ↔ s.cpuLoop p (duePeriods p s.accCpu) c = .next (t, r) := by
  constructor
  case mp =>
    intro h
    induction h with
    | done hlt => rw [duePeriods_eq_zero_iff.mpr hlt]; rfl
    | fatal hle hstep hm =>
      rw [duePeriods_of_le hle, cpuLoop_succ_iff]
      exact ⟨_, hstep, .inl ⟨hm, rfl, rfl⟩⟩
    | step hle hstep hm _ ih =>
      rw [duePeriods_of_le hle, cpuLoop_succ_iff]
      exact ⟨_, hstep, .inr ⟨hm, duePeriods_accCpu_of_step hstep ▸ ih⟩⟩
  case mpr =>
    intro h
    induction hdue : duePeriods p s.accCpu generalizing s c with
    | zero =>
      rw [hdue] at h
      cases h
      exact .done (duePeriods_eq_zero_iff.mp hdue)
    | succ n ih =>
      rw [hdue, cpuLoop_succ_iff] at h
      obtain ⟨hle, hrest⟩ := le_of_duePeriods_eq_succ hdue
      obtain ⟨u, hstep, ⟨hm, rfl, rfl⟩ | ⟨hm, hloop⟩⟩ := h
      · exact .fatal hle hstep hm
      · have hu := (duePeriods_accCpu_of_step hstep).trans hrest
        exact .step hle hstep hm (ih (hu.symm ▸ hloop) hu)

end

/-! ## `Update` (R164, R167) -/

/-- The state between the two loops of `Update`: time added and the due ticks applied. -/
def afterTicks (p : Params) (tNow : Nat) (s : State) : State :=
  (afterElapsed p tNow s).timerLoop p (ticksDue p tNow s)

section
variable {p : Params} {s t : State} {tNow : Nat} {r : UpdateResult}

theorem update_halted (hm : s.mode = .halted) : s.update p tNow = .next (s, .fatal s.fault) := if_pos hm

theorem update_of_le (hm : s.mode ≠ .halted) (ht : s.tLast ≤ tNow) :
    s.update p tNow = (afterTicks p tNow s).cpuLoop p (duePeriods p (afterTicks p tNow s).accCpu) 0 :=
  (if_neg hm).trans (if_neg (Nat.not_lt.mpr ht))

theorem update_iff_cpuWhile (hm : s.mode ≠ .halted) (ht : s.tLast ≤ tNow) :
    s.update p tNow = .next (t, r) ↔ CpuWhile p (afterTicks p tNow s) 0 t r := by
  rw [update_of_le hm ht, cpuWhile_iff]

/-- Settles O41: each loop is the counted one, and the timer loop has one final state. -/
theorem updateIsTheSpecsTwoLoops : Obligations.UpdateIsTheSpecsTwoLoops := by
  intro p tNow s t r hm ht
  simp only [timerWhile_iff, exists_eq_left]
  exact update_iff_cpuWhile hm ht

/-- An `Update` that answers was in Halted, or ran its ticks and then the CPU loop. -/
theorem update_cases (h : s.update p tNow = .next (t, r)) :
    (s.mode = .halted ∧ t = s ∧ r = .fatal s.fault) ∨
    (s.mode ≠ .halted ∧ s.tLast ≤ tNow ∧ CpuWhile p (afterTicks p tNow s) 0 t r) := by
  by_cases hm : s.mode = .halted
  · cases (update_halted hm).symm.trans h
    exact .inl ⟨hm, rfl, rfl⟩
  · have ht : s.tLast ≤ tNow := by
      by_contra hlt
      have hback : s.update p tNow = .refused (.timeWentBack tNow s.tLast) :=
        (if_neg hm).trans (if_pos (Nat.lt_of_not_le hlt))
      cases hback.symm.trans h
    exact .inr ⟨hm, ht, (update_iff_cpuWhile hm ht).mp h⟩

end

/-! ### The state between the loops -/

section
variable (p : Params) (tNow : Nat) (s : State)

/-- The ticks change the two timers and the timer debt, which ends below a period. -/
theorem afterTicks_eq :
    afterTicks p tNow s = { afterElapsed p tNow s with
      dt := (afterTicks p tNow s).dt
      st := (afterTicks p tNow s).st
      accTmr := (s.accTmr + (tNow - s.tLast) * 60) % p.timebaseHz } := by
  rw [← sub_duePeriods_mul]
  exact State.timerLoop_eq _ _ _

@[simp] theorem afterTicks_tLast : (afterTicks p tNow s).tLast = tNow := by rw [afterTicks_eq]; rfl

@[simp] theorem afterTicks_mode : (afterTicks p tNow s).mode = s.mode := by rw [afterTicks_eq]; rfl

@[simp] theorem afterTicks_accTmr :
    (afterTicks p tNow s).accTmr = (s.accTmr + (tNow - s.tLast) * 60) % p.timebaseHz := by rw [afterTicks_eq]

@[simp] theorem afterTicks_accCpu :
    (afterTicks p tNow s).accCpu = s.accCpu + (tNow - s.tLast) * min p.cpuHzCfg 1000 := by rw [afterTicks_eq]; rfl

end

/-- Settles O42: no period of either debt is due. -/
theorem zeroDeltaUpdateIsNop : Obligations.ZeroDeltaUpdateIsNop := by
  intro p s hm htmr hcpu
  have hticks : afterTicks p s.tLast s = { s with loadable := false } := by
    have hzero : ticksDue p s.tLast s = 0 := by simp [ticksDue, Nat.div_eq_of_lt htmr]
    rw [afterTicks, hzero]
    simp [State.timerLoop, afterElapsed]
  rw [update_iff_cpuWhile hm le_rfl, hticks]
  exact .done hcpu

/-! ## What the CPU loop leaves -/

section
variable {p : Params} {s t : State} {c : Nat} {r : UpdateResult}

/-- What paying a period and stepping keeps, the CPU loop keeps. -/
theorem cpuWhile_keeps {P : State → Prop}
    (hkeep : ∀ s u, P s → step { s with accCpu := s.accCpu - p.timebaseHz } = .next u → P u)
    (h : CpuWhile p s c t r) (hs : P s) : P t := by
  induction h with
  | done _ => exact hs
  | fatal _ hstep _ => exact hkeep _ _ hs hstep
  | step _ hstep _ _ ih => exact ih (hkeep _ _ hs hstep)

theorem cpuWhile_clock (h : CpuWhile p s c t r) : t.tLast = s.tLast ∧ t.accTmr = s.accTmr :=
  cpuWhile_keeps (P := fun u => u.tLast = s.tLast ∧ u.accTmr = s.accTmr)
    (fun _ _ ⟨htl, hacc⟩ hstep =>
      have hu := step_leavesHostState hstep
      ⟨hu.tLast.trans htl, hu.accTmr.trans hacc⟩)
    h ⟨rfl, rfl⟩

/-- A loop that ends with a count has run the due steps, and the remainder of the debt is left. -/
theorem cpuWhile_steps {n : Nat} (h : CpuWhile p s c t (.steps n)) :
    n = c + duePeriods p s.accCpu ∧ t.accCpu = s.accCpu % p.timebaseHz := by
  generalize hr : UpdateResult.steps n = r at h
  induction h with
  | done hlt =>
    cases hr
    exact ⟨by rw [duePeriods_eq_zero_iff.mpr hlt]; rfl, (Nat.mod_eq_of_lt hlt).symm⟩
  | fatal => cases hr
  | step hle hstep _ _ ih =>
    obtain ⟨hn, hacc⟩ := ih hr
    rw [duePeriods_accCpu_of_step hstep] at hn
    rw [(step_leavesHostState hstep).accCpu] at hacc
    exact ⟨by rw [hn, duePeriods_of_le hle]; omega, hacc.trans (Nat.mod_eq_sub_mod hle).symm⟩

/-- A loop that ends with the fault has taken the fatal entry. -/
theorem cpuWhile_fatal {l : Option FatalRecord} (h : CpuWhile p s c t (.fatal l)) :
    t.mode = .halted ∧ l = t.fault ∧ t.fault = some ⟨.pcRange, t.pc⟩ ∧ ¬ inFetchWindow t.pc := by
  generalize hr : UpdateResult.fatal l = r at h
  induction h with
  | done => cases hr
  | fatal _ hstep hm =>
    obtain ⟨hpc, rfl⟩ := step_into_halted hstep hm
    cases hr
    exact ⟨rfl, rfl, rfl, hpc⟩
  | step _ _ _ _ ih => exact ih hr

theorem cpuWhile_accCpu_lt (h : CpuWhile p s c t r) (hm : t.mode ≠ .halted) : t.accCpu < p.timebaseHz := by
  induction h with
  | done hlt => exact hlt
  | fatal _ _ hhalt => exact absurd hhalt hm
  | step _ _ _ _ ih => exact ih hm

end

/-- Settles O43: a count comes from the loops only, which leave the remainders. -/
theorem updateCatchesUp : Obligations.UpdateCatchesUp := by
  intro p tNow n s t h
  obtain ⟨-, -, hr⟩ | ⟨-, -, hloop⟩ := update_cases h
  · cases hr
  · obtain ⟨hn, hcpu⟩ := cpuWhile_steps hloop
    obtain ⟨htl, htmr⟩ := cpuWhile_clock hloop
    simp only [afterTicks_accCpu, afterTicks_tLast, afterTicks_accTmr, Nat.zero_add] at hn hcpu htl htmr
    exact ⟨hn, htl, hcpu, htmr⟩

/-- Settles O45: the latch in Halted, the fatal entry of the CPU loop outside it. -/
theorem updateReturnsTheFault : Obligations.UpdateReturnsTheFault := by
  refine fun p tNow s => ⟨update_halted, fun t l hm h => ?_⟩
  obtain ⟨hhalt, -⟩ | ⟨-, -, hloop⟩ := update_cases h
  · exact absurd hhalt hm
  · obtain ⟨hhalt, hl, hlatch, hpc⟩ := cpuWhile_fatal hloop
    obtain ⟨htl, htmr⟩ := cpuWhile_clock hloop
    refine ⟨hhalt, hl, hlatch, hpc, htl.trans (afterTicks_tLast p tNow s), ?_⟩
    rw [htmr, afterTicks_accTmr]
    exact Nat.mod_lt _ p.timebaseHz_pos

/-! ## Two calls and one (R169) -/

/-- Time that goes by in two parts, each unit adding `hz` to a debt with periods of `d`: the periods due add up to those of the
whole, and the same debt remains. -/
theorem due_in_two_parts {d : Nat} (hd : 0 < d) (acc hz : Nat) {t0 t1 t2 : Nat} (h1 : t0 ≤ t1) (h2 : t1 ≤ t2) :
    (acc + (t2 - t0) * hz) / d =
      (acc + (t1 - t0) * hz) / d + ((acc + (t1 - t0) * hz) % d + (t2 - t1) * hz) / d ∧
    (acc + (t2 - t0) * hz) % d = ((acc + (t1 - t0) * hz) % d + (t2 - t1) * hz) % d := by
  have hsplit : acc + (t2 - t0) * hz = acc + (t1 - t0) * hz + (t2 - t1) * hz := by
    rw [Nat.add_assoc, ← Nat.add_mul, ← Nat.add_comm (t2 - t1), Nat.sub_add_sub_cancel h2 h1]
  rw [hsplit, Nat.mod_add_mod]
  refine ⟨?_, rfl⟩
  generalize acc + (t1 - t0) * hz = a
  conv_lhs => rw [← Nat.div_add_mod a d, Nat.add_assoc, Nat.mul_add_div hd]

/-- An `Update` that answers a count was given a time not before the last. -/
theorem tLast_le_of_update_steps {p : Params} {tNow n : Nat} {s t : State} (h : s.update p tNow = .next (t, .steps n)) :
    s.tLast ≤ tNow := by
  obtain ⟨-, -, hr⟩ | ⟨-, ht, -⟩ := update_cases h
  · cases hr
  · exact ht

/-- Settles O44: what each call leaves is O43, and the arithmetic is that of time in two parts. -/
theorem updateIsBatchingInvariant : Obligations.UpdateIsBatchingInvariant := by
  intro p t1 t2 n1 n2 n s s1 s2 s' hfirst hsecond hwhole
  obtain ⟨hn1, htl1, hcpu1, htmr1⟩ := updateCatchesUp p t1 n1 s s1 hfirst
  obtain ⟨hn2, htl2, hcpu2, htmr2⟩ := updateCatchesUp p t2 n2 s1 s2 hsecond
  obtain ⟨hn, htl, hcpu, htmr⟩ := updateCatchesUp p t2 n s s' hwhole
  have h1 := tLast_le_of_update_steps hfirst
  have h2 : t1 ≤ t2 := htl1 ▸ tLast_le_of_update_steps hsecond
  obtain ⟨hsteps, hcpuRest⟩ := due_in_two_parts p.timebaseHz_pos s.accCpu (min p.cpuHzCfg 1000) h1 h2
  obtain ⟨hticks, htmrRest⟩ := due_in_two_parts p.timebaseHz_pos s.accTmr 60 h1 h2
  rw [stepsDue] at hn1 hn2 hn
  rw [htl1, hcpu1] at hn2 hcpu2
  rw [htl1, htmr1] at htmr2
  refine ⟨?_, ?_, ?_, ?_, htl.trans htl2.symm⟩
  · rw [hn, hn1, hn2, hsteps]
  · rw [ticksDue, ticksDue, ticksDue, htl1, htmr1, hticks]
  · rw [hcpu, hcpu2, hcpuRest]
  · rw [htmr, htmr2, htmrRest]

/-! ## The display frame (R173, R174) -/

section
variable (p : Params) (s : State)

theorem readDisplayFrame_of_clean {s : State} (h : s.dirty = false) : s.readDisplayFrame p = (s, s.packed) :=
  if_neg (Bool.eq_false_iff.mp h)

/-- A read leaves the frame clean and in the cache. -/
theorem readDisplayFrame_caches :
    (s.readDisplayFrame p).1 = { s with packed := (s.readDisplayFrame p).2, dirty := false } := by
  cases h : s.dirty with
  | true => rw [readDisplayFrame_of_dirty p h]
  | false =>
    rw [readDisplayFrame_of_clean p h]
    cases s
    cases h
    rfl

/-- The tag stands at position 0 of a packed frame. -/
theorem packDisplay_tag (tag : Byte) (fb : FrameBuffer) : (packDisplay tag fb)[0] = tag :=
  getElem_packDisplay tag fb 0

/-- Group `g` of row `r` stands at position `1 + 8 * r + g` of a packed frame. -/
theorem packDisplay_group (tag : Byte) (fb : FrameBuffer) (r : Fin 32) (g : Fin 8) :
    (packDisplay tag fb)[1 + 8 * r.val + g.val]'(by omega) = pack8 (fb.group r g) := by
  have hr : (1 + 8 * r.val + g.val - 1) / 8 % 32 = r.val := by omega
  have hg : (1 + 8 * r.val + g.val - 1) % 8 % 8 = g.val := by omega
  refine (getElem_packDisplay tag fb ⟨1 + 8 * r.val + g.val, by omega⟩).trans ?_
  rw [displayByte, if_neg (by simp only; omega)]
  congr 2
  · exact Fin.ext hr
  · exact Fin.ext hg

/-- The number whose low 8 bits `pack8` takes. -/
def packedNumber (bits : List Bool) : Nat := bits.foldl (fun n b => 2 * n + (if b then 1 else 0)) 0

theorem pack8_eq (bits : List Bool) : pack8 bits = BitVec.ofNat 8 (packedNumber bits) := rfl

/-- A pixel packed last becomes the lowest bit. -/
theorem packedNumber_concat (bits : List Bool) (b : Bool) :
    packedNumber (bits ++ [b]) = Nat.bit b (packedNumber bits) := by
  rw [packedNumber, List.foldl_append]
  cases b <;> rfl

/-- Pixel `k` of the list is bit `length - 1 - k` of its number. -/
theorem testBit_packedNumber (bits : List Bool) {k : Nat} (hk : k < bits.length) :
    (packedNumber bits).testBit (bits.length - 1 - k) = bits[k] := by
  induction bits using List.reverseRecOn with
  | nil => cases hk
  | append_singleton bits b ih =>
    have hlen : (bits ++ [b]).length - 1 = bits.length := by simp
    rw [packedNumber_concat, hlen]
    obtain hlt | rfl := Nat.lt_succ_iff_lt_or_eq.mp (show k < bits.length + 1 by simpa using hk)
    · rw [show bits.length - k = bits.length - 1 - k + 1 by omega, Nat.testBit_bit_succ, ih hlt,
        List.getElem_append_left]
    · simp

theorem length_group (fb : FrameBuffer) (r : Fin 32) (g : Fin 8) : (fb.group r g).length = 8 := by
  simp [FrameBuffer.group]

theorem getElem_group (fb : FrameBuffer) (r : Fin 32) (g b : Fin 8) :
    (fb.group r g)[b.val]'(by rw [length_group]; omega) = fb.pixel r ⟨8 * g.val + b.val, by omega⟩ := by
  have hcol : Fin.ofNat 64 (8 * g.val + b.val) = ⟨8 * g.val + b.val, by omega⟩ :=
    Fin.ext (Nat.mod_eq_of_lt (by omega))
  simp only [FrameBuffer.group, List.getElem_map, List.getElem_range, hcol]

/-- Column `8 * g + b` of a row stands in bit `7 - b` of the byte of group `g`. -/
theorem getLsbD_pack8_group (fb : FrameBuffer) (r : Fin 32) (g b : Fin 8) :
    (pack8 (fb.group r g)).getLsbD (7 - b.val) = fb.pixel r ⟨8 * g.val + b.val, by omega⟩ := by
  have hbit := testBit_packedNumber (fb.group r g) (k := b.val) (by rw [length_group]; omega)
  rw [getElem_group, length_group] at hbit
  rw [pack8_eq, BitVec.getLsbD_ofNat, hbit, decide_eq_true (by omega), Bool.true_and]

/-- Settles O47: a dirty read packs the frame group by group, and every read leaves a clean frame, with its answer cached. -/
theorem displayFrameIsAPureCache : Obligations.DisplayFrameIsAPureCache := by
  intro p s
  refine ⟨fun hd => ⟨?tag, fun r g b => ?pixel, readDisplayFrame_caches p s⟩, readDisplayFrame_of_clean p, ?again⟩
  case tag =>
    simp only [readDisplayFrame_of_dirty p hd]
    exact packDisplay_tag _ _
  case pixel =>
    simp only [readDisplayFrame_of_dirty p hd]
    rw [packDisplay_group, getLsbD_pack8_group]
  case again =>
    have hcaches := readDisplayFrame_caches p s
    rw [readDisplayFrame_of_clean p (congrArg State.dirty hcaches)]
    exact Prod.ext rfl (congrArg State.packed hcaches)

end

/-! ## The debug frame (R175) -/

/-- Settles O49: position `1 + a` is past the tag, in the range of addresses. -/
theorem debugFrameIsRawMemory : Obligations.DebugFrameIsRawMemory := by
  refine fun p s => ⟨by simp [State.readDebugFrame, memSize], rfl, p.tags_ne, fun a ha => ?_, rfl⟩
  have haddr : (List.range memSize)[a]? = some a := List.getElem?_range ha
  rw [State.readDebugFrame, Nat.add_comm, List.getElem?_cons_succ, List.getElem?_map, haddr]
  rfl

/-! ## The keypad port (R170, R171) -/

/-- The key acted on is `k mod 16`. -/
theorem eq_keyIdent_iff (k : Int) (j : Nibble) : j = keyIdent k ↔ (j.toNat : Int) = k % 16 := by
  have hk : ((keyIdent k).toNat : Int) = k % 16 := by
    rw [keyIdent, BitVec.toNat_ofInt]
    omega
  rw [← hk, Nat.cast_inj, BitVec.toNat_inj]

/-- Settles O46: a key read after the write of key `k mod 16`. -/
theorem keyPortSetsMaskedKey : Obligations.KeyPortSetsMaskedKey := by
  refine fun k s j => ⟨?_, ?_, rfl, ?_, rfl⟩
  · simp only [State.pressKey_keys, KeyBits.get_put, eq_keyIdent_iff]
  · simp only [State.pressKey_keyEvt, KeyBits.get_put, eq_keyIdent_iff]
  · simp only [State.unpressKey_keys, KeyBits.get_put, eq_keyIdent_iff]

/-! ## A program cannot see the frame cache (R173, 10_state.md R18) -/

/-- `s` with another `DIRTY` and another `PACKED`. -/
def withCache (d : Bool) (pk : Vector Byte 257) (s : State) : State := { s with dirty := d, packed := pk }

/-- Two outcomes are the same but for `DIRTY` and `PACKED` of a next state. -/
inductive SameButCache : StepResult → StepResult → Prop where
  | next (t : State) (d : Bool) (pk : Vector Byte 257) : SameButCache (.next t) (.next (withCache d pk t))
  | fault (f : Fault) : SameButCache (.fault f) (.fault f)
  | refused (e : Refusal) : SameButCache (.refused e) (.refused e)

theorem SameButCache.ite {c : Prop} [Decidable c] {a b a' b' : StepResult} (ha : SameButCache a a')
    (hb : SameButCache b b') : SameButCache (if c then a else b) (if c then a' else b') := by
  split
  · exact ha
  · exact hb

section
variable (d : Bool) (pk : Vector Byte 257) (s : State)

theorem push_withCache (w : Word) : (withCache d pk s).push w = (s.push w).map (withCache d pk) := by
  by_cases h : s.sp.val < 16
  · rw [State.push_of_lt w h, State.push_of_lt (s := withCache d pk s) w h]
    rfl
  · rw [State.push_full w h, State.push_full (s := withCache d pk s) w h]
    rfl

theorem pop_withCache : (withCache d pk s).pop = s.pop.map (Prod.map id (withCache d pk)) := by
  rcases hsp : s.sp with ⟨_ | n, hlt⟩
  · rw [State.pop_empty (congrArg Fin.val hsp), State.pop_empty (s := withCache d pk s) (congrArg Fin.val hsp)]
    rfl
  · rw [State.pop_of_eq hlt hsp, State.pop_of_eq (s := withCache d pk s) hlt hsp]
    rfl

theorem loadBlock_withCache (n : Nat) : (withCache d pk s).loadBlock n = withCache d pk (s.loadBlock n) :=
  List.foldl_hom (withCache d pk) fun _ _ => rfl

/-- The key wait in Halted is never dispatched (40_step_and_control.md R80). -/
theorem exec_ldVxK_halted {s : State} {x : RegIx} (h : s.mode = .halted) :
    exec (.ldVxK x) s = .fault (.halted s.fault) := by
  simp only [exec, execLdVxK, h]

/-- No instruction reads `DIRTY` or `PACKED`. -/
theorem exec_sameButCache (i : Instr) : SameButCache (exec i s) (exec i (withCache d pk s)) := by
  cases i with
  | ret =>
    have hpop := pop_withCache d pk s
    cases h : s.pop with
    | none =>
      rw [h] at hpop
      rw [exec_ret_empty h, exec_ret_empty hpop]
      exact .next _ _ _
    | some o =>
      rw [h] at hpop
      rw [exec_ret_of_pop h, exec_ret_of_pop hpop]
      exact .next _ _ _
  | call nnn =>
    have hpush := push_withCache d pk s s.pc
    cases h : s.push s.pc with
    | none =>
      rw [h] at hpush
      rw [exec_call_full nnn h, exec_call_full nnn hpush]
      exact .next _ _ _
    | some u =>
      rw [h] at hpush
      rw [exec_call_of_push nnn h, exec_call_of_push nnn hpush]
      exact .next _ _ _
  | drw x y n => exact .ite (.next _ true pk) (.next _ d pk)
  | ldBVx | ldMemVx => exact .ite (.next _ d pk) (.next _ d pk)
  | ldVxMem x =>
    have hload := loadBlock_withCache d pk s (x.toNat + 1)
    exact .ite (hload.symm ▸ .next (s.loadBlock (x.toNat + 1)).advance d pk) (.next _ d pk)
  | ldVxK x =>
    cases hm : s.mode with
    | running =>
      rw [exec_ldVxK_running hm, exec_ldVxK_running (s := withCache d pk s) hm]
      exact .next _ d pk
    | waitingForKeypress =>
      cases hk : KeyBits.lowest s.keyEvt with
      | some k =>
        rw [exec_ldVxK_event hm hk, exec_ldVxK_event (s := withCache d pk s) hm hk]
        exact .next _ d pk
      | none =>
        rw [exec_ldVxK_noEvent hm hk, exec_ldVxK_noEvent (s := withCache d pk s) hm hk]
        exact .next _ d pk
    | halted =>
      rw [exec_ldVxK_halted hm, exec_ldVxK_halted (s := withCache d pk s) hm]
      exact .fault _
  | cls => exact .next _ true pk
  | _ => exact .next _ d pk

/-- Nor does the rest of a step. -/
theorem step_sameButCache : SameButCache (step s) (step (withCache d pk s)) := by
  by_cases hm : s.mode = .halted
  · rw [step_halted hm, step_halted (s := withCache d pk s) hm]
    exact .fault _
  by_cases hpc : inFetchWindow s.pc
  · have hop : (withCache d pk s).fetchOp = s.fetchOp := rfl
    rw [step_in_window hm hpc, step_in_window (s := withCache d pk s) hm hpc, hop]
    cases decodeWord s.fetchOp with
    | ok i => exact .ite (.refused _) (exec_sameButCache d pk s i)
    | error e => exact .ite (.refused _) (.next _ d pk)
  · rw [step_fatal hm hpc, step_fatal (s := withCache d pk s) hm hpc]
    exact .next _ d pk

/-- A display-frame read writes the cache only. -/
theorem readDisplayFrame_eq_withCache (p : Params) :
    (s.readDisplayFrame p).1 = withCache false (s.readDisplayFrame p).2 s :=
  readDisplayFrame_caches p s

end

/-- Settles O53: a display-frame read is another cache, and the step with another cache has the same kind of outcome. -/
theorem displayReadIsInvisibleToPrograms : Obligations.DisplayReadIsInvisibleToPrograms := by
  intro p s
  rw [readDisplayFrame_eq_withCache]
  have hsame := step_sameButCache false (s.readDisplayFrame p).2 s
  generalize step (withCache false (s.readDisplayFrame p).2 s) = o at hsame
  refine ⟨fun t h => ?_, fun f h => ?_, fun e h => ?_⟩
  · rw [h] at hsame
    cases hsame with
    | next _ d pk => exact ⟨_, rfl, rfl⟩
  · rw [h] at hsame
    cases hsame
    rfl
  · rw [h] at hsame
    cases hsame
    rfl

/-! ## The invariant of the host's sequence of calls (R177) -/

section
variable {p : Params} {s t : State} {tNow : Nat} {r : UpdateResult}

/-- Time and ticks touch nothing that the step invariant speaks of. -/
theorem inv_afterTicks (p : Params) (tNow : Nat) (hs : Inv s) : Inv (afterTicks p tNow s) := by
  rw [afterTicks_eq]
  exact { hs with }

theorem inv_cpuWhile {c : Nat} (h : CpuWhile p s c t r) (hs : Inv s) : Inv t :=
  cpuWhile_keeps (P := Inv)
    (fun s u hu => stepKeepsTheInvariant { s with accCpu := s.accCpu - p.timebaseHz } u { hu with }) h hs

/-- The CPU loop leaves a clean frame as it was, or `DIRTY` set (R173). -/
theorem cpuWhile_frame {c : Nat} (h : CpuWhile p s c t r) : t.dirty = false → s.dirty = false ∧ t.packed = s.packed :=
  cpuWhile_keeps (P := fun u => u.dirty = false → s.dirty = false ∧ u.packed = s.packed)
    (fun _ _ hframe hstep hd =>
      have hu := step_leavesHostState hstep
      (hframe (hu.dirty hd)).imp_right hu.packed.trans)
    h fun hd => ⟨hd, rfl⟩

theorem hostInv_hostReset (p : Params) (s : State) : HostInv p (s.hostReset p) where
  inv := { inv_resetWith p.font with }
  accTmr := p.timebaseHz_pos
  accCpu _ := p.timebaseHz_pos
  tag h := nomatch h

/-- A `Load` that answers was in Running; it copied the bytes or reported their length (70_reset_and_hazards.md R192, R193). -/
theorem load_cases {bytes : List Byte} {lr : LoadResult} (h : s.load bytes = .next (t, lr)) :
    s.mode = .running ∧
      (t = { s with mem := Memory.writeBytes s.mem loadBase bytes, loadable := false } ∨
        t = { s.report (.loadTooLong bytes.length) with loadable := false }) := by
  unfold State.load at h
  split at h
  case isFalse => cases h
  case isTrue hlegal =>
    refine ⟨hlegal.2, ?_⟩
    split at h
    · cases h; exact .inl rfl
    · cases h; exact .inr rfl

theorem hostInv_load {bytes : List Byte} {lr : LoadResult} (hs : HostInv p s) (h : s.load bytes = .next (t, lr)) :
    HostInv p t := by
  obtain ⟨hrun, rfl | rfl⟩ := load_cases h
  · exact { hs with
      inv := { hs.inv with
        memWf := Memory.wf_writeBytes loadBase bytes hs.inv.memWf
        waitWord := fun hwait => nomatch hrun.symm.trans hwait } }
  · exact { hs with inv := { hs.inv with } }

theorem hostInv_update (hs : HostInv p s) (h : s.update p tNow = .next (t, r)) : HostInv p t := by
  obtain ⟨-, rfl, -⟩ | ⟨-, -, hloop⟩ := update_cases h
  · exact hs
  · constructor
    case inv => exact inv_cpuWhile hloop (inv_afterTicks p tNow hs.inv)
    case accTmr =>
      rw [(cpuWhile_clock hloop).2, afterTicks_accTmr]
      exact Nat.mod_lt _ p.timebaseHz_pos
    case accCpu => exact cpuWhile_accCpu_lt hloop
    case tag =>
      intro hd
      obtain ⟨hclean, hpacked⟩ := cpuWhile_frame hloop hd
      rw [afterTicks_eq] at hclean hpacked
      rw [hpacked]
      exact hs.tag hclean

theorem hostInv_pressKey (hs : HostInv p s) (k : Int) : HostInv p (s.pressKey k) :=
  { hs with inv := { hs.inv with } }

theorem hostInv_unpressKey (hs : HostInv p s) (k : Int) : HostInv p (s.unpressKey k) :=
  { hs with inv := { hs.inv with } }

theorem hostInv_readDisplayFrame (hs : HostInv p s) : HostInv p (s.readDisplayFrame p).1 := by
  cases hd : s.dirty with
  | false =>
    rw [readDisplayFrame_of_clean p hd]
    exact hs
  | true =>
    rw [readDisplayFrame_of_dirty p hd]
    exact { hs with
      inv := { hs.inv with packedFresh := fun _ => packDisplay_group p.displayTag s.fb }
      tag := fun _ => packDisplay_tag p.displayTag s.fb }

end

/-- The host operation Load answers what `State.load` answers. -/
theorem hostOp_load_next {p : Params} {s t : State} {bytes : List Byte} {r : HostReply}
    (h : hostOp p (.load bytes) s = .next (t, r)) : ∃ lr, s.load bytes = .next (t, lr) := by
  simp only [hostOp] at h
  split at h
  · next u lr hload => cases h; exact ⟨lr, hload⟩
  · cases h
  · cases h

/-- The host operation Update answers what `State.update` answers. -/
theorem hostOp_update_next {p : Params} {s t : State} {tNow : Nat} {r : HostReply}
    (h : hostOp p (.update tNow) s = .next (t, r)) : ∃ ur, s.update p tNow = .next (t, ur) := by
  simp only [hostOp] at h
  split at h
  · next u ur hupdate => cases h; exact ⟨ur, hupdate⟩
  · cases h
  · cases h

/-- Settles O57: the operations one by one; of these only Update runs steps, and its loop keeps what each step keeps. -/
theorem hostOperationsKeepTheInvariant : Obligations.HostOperationsKeepTheInvariant := by
  intro p op s t r hs h
  cases op with
  | reset => cases h; exact hostInv_hostReset p s
  | load bytes =>
    obtain ⟨lr, hload⟩ := hostOp_load_next h
    exact hostInv_load hs hload
  | update tNow =>
    obtain ⟨ur, hupdate⟩ := hostOp_update_next h
    exact hostInv_update hs hupdate
  | pressKey k => cases h; exact hostInv_pressKey hs k
  | unpressKey k => cases h; exact hostInv_unpressKey hs k
  | readDisplayFrame => cases h; exact hostInv_readDisplayFrame hs
  | readDebugFrame => cases h; exact hs

/-! ## `Update` always answers (R166, R168) -/

/-- No step of the loop stops, so the counted loop answers (40_step_and_control.md R80). -/
theorem cpuLoop_next (p : Params) {s : State} (hs : Inv s) (hm : s.mode ≠ .halted) (n c : Nat) :
    ∃ t r, s.cpuLoop p n c = .next (t, r) := by
  induction n generalizing s c with
  | zero => exact ⟨s, .steps c, rfl⟩
  | succ n ih =>
    have hpaid : Inv { s with accCpu := s.accCpu - p.timebaseHz } := { hs with }
    obtain ⟨u, hstep⟩ := stepNeverStopsUnlessHalted _ hpaid hm
    by_cases hu : u.mode = .halted
    · exact ⟨u, .fatal u.fault, cpuLoop_succ_iff.mpr ⟨u, hstep, .inl ⟨hu, rfl, rfl⟩⟩⟩
    · obtain ⟨t, r, hloop⟩ := ih (stepKeepsTheInvariant _ _ hpaid hstep) hu (c + 1)
      exact ⟨t, r, cpuLoop_succ_iff.mpr ⟨u, hstep, .inr ⟨hu, hloop⟩⟩⟩

/-- Settles O58: the latch in Halted, the CPU loop outside it. -/
theorem updateAlwaysReturns : Obligations.UpdateAlwaysReturns := by
  intro p tNow s hs ht
  by_cases hm : s.mode = .halted
  · exact ⟨s, .fatal s.fault, update_halted hm⟩
  · rw [update_of_le hm ht]
    exact cpuLoop_next p (inv_afterTicks p tNow hs.inv) (by rwa [afterTicks_mode]) _ 0

end Sys2Proof.Proofs
end

section
/-! PROOFS. The family of spec/70_reset_and_hazards.md. Each answer of `Load` is an equation of its own, and so is the refusal.
No step gives the load permission back, so no Load is accepted after an `Update`. -/

namespace Sys2Proof.Proofs

open Sys2Proof Sys2Proof.Machine Sys2Proof.Safety

/-! ## The three answers of `Load` (70_reset_and_hazards.md R192 to R194) -/

section
variable {s : State} {bytes : List Byte}

theorem load_of_fits (hload : s.loadable = true) (hrun : s.mode = .running) (hfits : bytes.length ≤ 0xE00) :
    s.load bytes = .next ({ s with mem := Memory.writeBytes s.mem 0x200 bytes, loadable := false }, .ok) :=
  (if_pos ⟨hload, hrun⟩).trans (if_pos hfits)

theorem load_of_tooLong (hload : s.loadable = true) (hrun : s.mode = .running) (hlong : 0xE00 < bytes.length) :
    s.load bytes = .next ({ s.report (.loadTooLong bytes.length) with loadable := false }, .tooLong) :=
  (if_pos ⟨hload, hrun⟩).trans (if_neg (Nat.not_le.mpr hlong))

theorem load_refused (h : s.loadable = false ∨ s.mode = .halted) : s.load bytes = .refused .loadOutOfLifecycle :=
  if_neg fun ⟨hload, hrun⟩ => h.elim (fun hf => nomatch hload.symm.trans hf) (fun hh => nomatch hrun.symm.trans hh)

end

/-- Settles O50: an image within the budget ends at or below 0xFFF, so every byte is stored at its own address. -/
theorem loadCopiesOrRejects : Obligations.LoadCopiesOrRejects := by
  refine fun bytes s hload hrun => ⟨fun hfits => ?copied, fun hlong => ⟨_, load_of_tooLong hload hrun hlong, rfl⟩⟩
  case copied =>
    have hmem : 0x200 + bytes.length ≤ memSize := Nat.add_le_add_left hfits 0x200
    refine ⟨_, load_of_fits hload hrun hfits, fun k hk => ?_, fun a => Memory.read_writeBytes_other s.mem _ bytes, rfl⟩
    rw [read_writeBytes_getElem s.mem hmem hk, List.getElem?_eq_getElem hk]

/-! ## The load permission (log entry 6) -/

section
variable {p : Params} {s t : State}

theorem load_loadable {bytes : List Byte} {lr : LoadResult} (h : s.load bytes = .next (t, lr)) : t.loadable = false := by
  obtain ⟨-, rfl | rfl⟩ := load_cases h <;> rfl

theorem step_loadable (hstep : step s = .next t) : t.loadable = s.loadable := by
  obtain ⟨-, h⟩ | ⟨-, -, h⟩ | ⟨i, -, -, -, -, h⟩ | ⟨-, -, -, h⟩ | ⟨-, -, -, h⟩ := step_cases s
  case inl => cases h.symm.trans hstep
  case inr.inl => cases h.symm.trans hstep; rfl
  case inr.inr.inl => exact (exec_effect (h.symm.trans hstep)).loadable
  case inr.inr.inr.inl => cases h.symm.trans hstep; rfl
  case inr.inr.inr.inr => cases h.symm.trans hstep

theorem cpuWhile_loadable {c : Nat} {r : UpdateResult} (h : CpuWhile p s c t r) : t.loadable = s.loadable :=
  cpuWhile_keeps (P := fun u => u.loadable = s.loadable) (fun _ _ hu hstep => (step_loadable hstep).trans hu) h rfl

@[simp] theorem afterTicks_loadable (p : Params) (tNow : Nat) (s : State) : (afterTicks p tNow s).loadable = false := by
  rw [afterTicks_eq]; rfl

/-- An `Update` that answers has ended the load permission, or the machine is in Halted. -/
theorem update_loadable_or_halted {tNow : Nat} {r : UpdateResult} (h : s.update p tNow = .next (t, r)) :
    t.loadable = false ∨ t.mode = .halted := by
  obtain ⟨hhalt, rfl, -⟩ | ⟨-, -, hloop⟩ := update_cases h
  · exact .inr hhalt
  · exact .inl ((cpuWhile_loadable hloop).trans (afterTicks_loadable p tNow s))

end

/-- Settles O51: a Load ends the permission; an Update ends it or leaves the machine in Halted, where no Load is accepted. -/
theorem loadIsRefusedAfterLoadOrUpdate : Obligations.LoadIsRefusedAfterLoadOrUpdate :=
  fun _ _ _ _ _ _ =>
    ⟨fun _ h => load_refused (.inl (load_loadable h)), fun _ h => load_refused (update_loadable_or_halted h)⟩

end Sys2Proof.Proofs
end
